-- ==== Sys2Proof/Word.lean ====
section
/-! DEFINITION. The word types of the machine: register bytes, 16-bit words, 4-bit and 12-bit operand fields. -/

namespace Sys2Proof

/-- A general register, a timer or a byte of memory (00_scope.md R11: XLEN = 8). All values are unsigned (R14). -/
abbrev Byte := BitVec 8

/-- An instruction word, the program counter or a stack slot (00_scope.md R11: ILEN = 2 bytes, PC_WIDTH = SLOT_WIDTH = 16). -/
abbrev Word := BitVec 16

/-- A 4-bit field of a word: a register index, a row count, a key code (30_encoding.md R92, 10_state.md R30). -/
abbrev Nib := BitVec 4

/-- The 12-bit address field NNN (30_encoding.md R92). -/
abbrev Addr12 := BitVec 12

end Sys2Proof
end

