-- ==== Sys2Proof/Syntax.lean ====
section
/-! DEFINITION. The instructions: one constructor for each of the 35 rows of the opcode table (30_encoding.md R93).
Operand names are the spec's (00_scope.md R17): X and Y register indices, NN an 8-bit immediate, NNN a 12-bit
address, N a 4-bit count. -/

namespace Sys2Proof

/-- The 35 instructions, in the order of the opcode table. -/
inductive Instr where
  /-- 00E0, CLS (45_display.md R190) -/
  | cls
  /-- 00EE, RET (41_flow.md R141) -/
  | ret
  /-- 0NNN other than 00E0 and 00EE, SYS NNN (41_flow.md R140) -/
  | sys (nnn : Addr12)
  /-- 1NNN, JP NNN (41_flow.md R142) -/
  | jp (nnn : Addr12)
  /-- 2NNN, CALL NNN (41_flow.md R143) -/
  | call (nnn : Addr12)
  /-- 3XNN, SE Vx, NN (42_skip.md R150) -/
  | seImm (x : Nib) (nn : Byte)
  /-- 4XNN, SNE Vx, NN (42_skip.md R151) -/
  | sneImm (x : Nib) (nn : Byte)
  /-- 5XY0, SE Vx, Vy (42_skip.md R152) -/
  | seReg (x y : Nib)
  /-- 6XNN, LD Vx, NN (43_load_alu.md R160) -/
  | ldImm (x : Nib) (nn : Byte)
  /-- 7XNN, ADD Vx, NN (43_load_alu.md R161) -/
  | addImm (x : Nib) (nn : Byte)
  /-- 8XY0, LD Vx, Vy (43_load_alu.md R162) -/
  | ldReg (x y : Nib)
  /-- 8XY1, OR Vx, Vy (43_load_alu.md R163) -/
  | orReg (x y : Nib)
  /-- 8XY2, AND Vx, Vy (43_load_alu.md R164) -/
  | andReg (x y : Nib)
  /-- 8XY3, XOR Vx, Vy (43_load_alu.md R165) -/
  | xorReg (x y : Nib)
  /-- 8XY4, ADD Vx, Vy (43_load_alu.md R166) -/
  | addReg (x y : Nib)
  /-- 8XY5, SUB Vx, Vy (43_load_alu.md R167) -/
  | subReg (x y : Nib)
  /-- 8XY6, SHR Vx, Vy (43_load_alu.md R168) -/
  | shr (x y : Nib)
  /-- 8XY7, SUBN Vx, Vy (43_load_alu.md R169) -/
  | subn (x y : Nib)
  /-- 8XYE, SHL Vx, Vy (43_load_alu.md R170) -/
  | shl (x y : Nib)
  /-- 9XY0, SNE Vx, Vy (42_skip.md R153) -/
  | sneReg (x y : Nib)
  /-- ANNN, LD I, NNN (44_index_memory.md R180) -/
  | ldI (nnn : Addr12)
  /-- BNNN, JP V0, NNN (41_flow.md R144) -/
  | jpV0 (nnn : Addr12)
  /-- CXNN, RND Vx, NN (43_load_alu.md R171) -/
  | rnd (x : Nib) (nn : Byte)
  /-- DXYN, DRW Vx, Vy, N (45_display.md R191) -/
  | drw (x y n : Nib)
  /-- EX9E, SKP Vx (42_skip.md R154) -/
  | skp (x : Nib)
  /-- EXA1, SKNP Vx (42_skip.md R155) -/
  | sknp (x : Nib)
  /-- FX07, LD Vx, DT (46_timer_key_instr.md R200) -/
  | ldVxDt (x : Nib)
  /-- FX0A, LD Vx, K (46_timer_key_instr.md R201) -/
  | ldVxK (x : Nib)
  /-- FX15, LD DT, Vx (46_timer_key_instr.md R202) -/
  | ldDtVx (x : Nib)
  /-- FX18, LD ST, Vx (46_timer_key_instr.md R203) -/
  | ldStVx (x : Nib)
  /-- FX1E, ADD I, Vx (44_index_memory.md R181) -/
  | addI (x : Nib)
  /-- FX29, LD F, Vx (44_index_memory.md R182) -/
  | ldF (x : Nib)
  /-- FX33, LD B, Vx (44_index_memory.md R183) -/
  | ldB (x : Nib)
  /-- FX55, LD [I], Vx (44_index_memory.md R184) -/
  | ldMemVx (x : Nib)
  /-- FX65, LD Vx, [I] (44_index_memory.md R185) -/
  | ldVxMem (x : Nib)
  deriving DecidableEq, Repr

end Sys2Proof
end

