-- ==== Sys2Proof/Decode.lean ====
section
/-! DEFINITION. Decoding (30_encoding.md R90 to R96), total on any bytes and rejecting by name, and after it the
encoder, written from the same table. -/

namespace Sys2Proof

/-- Why a word or a byte string is no instruction. The five groups are the parts of the unrecognized space
(30_encoding.md R96); a byte string of less than two bytes holds no word (R90). -/
inductive Reject where
  | truncated
  | group5
  | group8
  | group9
  | groupE
  | groupF
  deriving DecidableEq, Repr

/-- `w[15:12]`, the opcode group (30_encoding.md R91). -/
def groupOf (w : Word) : Nib := w.extractLsb' 12 4

/-- X = `w[11:8]` (30_encoding.md R92). -/
def fieldX (w : Word) : Nib := w.extractLsb' 8 4

/-- Y = `w[7:4]` (30_encoding.md R92). -/
def fieldY (w : Word) : Nib := w.extractLsb' 4 4

/-- N = `w[3:0]` (30_encoding.md R92). -/
def fieldN (w : Word) : Nib := w.extractLsb' 0 4

/-- NN = `w[7:0]` (30_encoding.md R92). -/
def fieldNN (w : Word) : Byte := w.extractLsb' 0 8

/-- NNN = `w[11:0]` (30_encoding.md R92). -/
def fieldNNN (w : Word) : Addr12 := w.extractLsb' 0 12

/-- Group 0: CLS, RET, and SYS for every other word (30_encoding.md R94). -/
def decodeGroup0 (nnn : Addr12) : Instr :=
  if nnn = 0x0E0#12 then .cls else if nnn = 0x0EE#12 then .ret else .sys nnn

/-- Group 8, selected by the low nibble (30_encoding.md R94). -/
def decodeGroup8 (x y n : Nib) : Except Reject Instr :=
  if n = 0x0#4 then .ok (.ldReg x y)
  else if n = 0x1#4 then .ok (.orReg x y)
  else if n = 0x2#4 then .ok (.andReg x y)
  else if n = 0x3#4 then .ok (.xorReg x y)
  else if n = 0x4#4 then .ok (.addReg x y)
  else if n = 0x5#4 then .ok (.subReg x y)
  else if n = 0x6#4 then .ok (.shr x y)
  else if n = 0x7#4 then .ok (.subn x y)
  else if n = 0xE#4 then .ok (.shl x y)
  else .error .group8

/-- Group E, selected by the low byte (30_encoding.md R94). -/
def decodeGroupE (x : Nib) (nn : Byte) : Except Reject Instr :=
  if nn = 0x9E#8 then .ok (.skp x)
  else if nn = 0xA1#8 then .ok (.sknp x)
  else .error .groupE

/-- Group F, selected by the low byte (30_encoding.md R94). -/
def decodeGroupF (x : Nib) (nn : Byte) : Except Reject Instr :=
  if nn = 0x07#8 then .ok (.ldVxDt x)
  else if nn = 0x0A#8 then .ok (.ldVxK x)
  else if nn = 0x15#8 then .ok (.ldDtVx x)
  else if nn = 0x18#8 then .ok (.ldStVx x)
  else if nn = 0x1E#8 then .ok (.addI x)
  else if nn = 0x29#8 then .ok (.ldF x)
  else if nn = 0x33#8 then .ok (.ldB x)
  else if nn = 0x55#8 then .ok (.ldMemVx x)
  else if nn = 0x65#8 then .ok (.ldVxMem x)
  else .error .groupF

/-- Dispatch by the opcode group, then inside groups 0, 5, 8, 9, E and F by the remaining fixed bits, every one of
which is compared (30_encoding.md R94; the exact comparison is the spec's decision D14, log 14). -/
def decodeFields (g x y n : Nib) (nn : Byte) (nnn : Addr12) : Except Reject Instr :=
  if g = 0x0#4 then .ok (decodeGroup0 nnn)
  else if g = 0x1#4 then .ok (.jp nnn)
  else if g = 0x2#4 then .ok (.call nnn)
  else if g = 0x3#4 then .ok (.seImm x nn)
  else if g = 0x4#4 then .ok (.sneImm x nn)
  else if g = 0x5#4 then (if n = 0x0#4 then .ok (.seReg x y) else .error .group5)
  else if g = 0x6#4 then .ok (.ldImm x nn)
  else if g = 0x7#4 then .ok (.addImm x nn)
  else if g = 0x8#4 then decodeGroup8 x y n
  else if g = 0x9#4 then (if n = 0x0#4 then .ok (.sneReg x y) else .error .group9)
  else if g = 0xA#4 then .ok (.ldI nnn)
  else if g = 0xB#4 then .ok (.jpV0 nnn)
  else if g = 0xC#4 then .ok (.rnd x nn)
  else if g = 0xD#4 then .ok (.drw x y n)
  else if g = 0xE#4 then decodeGroupE x nn
  else decodeGroupF x nn

/-- The instruction a 16-bit word selects: all five fields are extracted from every word (30_encoding.md R92) and the
instruction is chosen by R94. -/
def decodeWord (w : Word) : Except Reject Instr :=
  decodeFields (groupOf w) (fieldX w) (fieldY w) (fieldN w) (fieldNN w) (fieldNNN w)

/-- The word of two bytes in big-endian order: the byte at the lower address is `w[15:8]` (20_memory.md R64). -/
def wordOfBytes (hi lo : Byte) : Word := hi ++ lo

/-- The instruction at the head of a byte string, and the bytes after it; a decoder always consumes two bytes
(30_encoding.md R90). -/
def decode : List Byte → Except Reject (Instr × List Byte)
  | hi :: lo :: rest => (decodeWord (wordOfBytes hi lo)).map fun i => (i, rest)
  | [_] => .error .truncated
  | [] => .error .truncated

/-- Format A: group and NNN (30_encoding.md R91). -/
def formatA (g : Nib) (nnn : Addr12) : Word := g ++ nnn

/-- Format I: group, X and NN (30_encoding.md R91). -/
def formatI (g x : Nib) (nn : Byte) : Word := g ++ x ++ nn

/-- Formats R and D: group, X, Y and the function or count nibble (30_encoding.md R91). -/
def formatR (g x y n : Nib) : Word := g ++ x ++ y ++ n

/-- Format F: group, X and the function byte (30_encoding.md R91). -/
def formatF (g x : Nib) (function : Byte) : Word := g ++ x ++ function

/-- The word of an instruction, from the opcode table (30_encoding.md R93). -/
def encodeWord : Instr → Word
  | .cls => 0x00E0#16
  | .ret => 0x00EE#16
  | .sys nnn => formatA 0x0#4 nnn
  | .jp nnn => formatA 0x1#4 nnn
  | .call nnn => formatA 0x2#4 nnn
  | .seImm x nn => formatI 0x3#4 x nn
  | .sneImm x nn => formatI 0x4#4 x nn
  | .seReg x y => formatR 0x5#4 x y 0x0#4
  | .ldImm x nn => formatI 0x6#4 x nn
  | .addImm x nn => formatI 0x7#4 x nn
  | .ldReg x y => formatR 0x8#4 x y 0x0#4
  | .orReg x y => formatR 0x8#4 x y 0x1#4
  | .andReg x y => formatR 0x8#4 x y 0x2#4
  | .xorReg x y => formatR 0x8#4 x y 0x3#4
  | .addReg x y => formatR 0x8#4 x y 0x4#4
  | .subReg x y => formatR 0x8#4 x y 0x5#4
  | .shr x y => formatR 0x8#4 x y 0x6#4
  | .subn x y => formatR 0x8#4 x y 0x7#4
  | .shl x y => formatR 0x8#4 x y 0xE#4
  | .sneReg x y => formatR 0x9#4 x y 0x0#4
  | .ldI nnn => formatA 0xA#4 nnn
  | .jpV0 nnn => formatA 0xB#4 nnn
  | .rnd x nn => formatI 0xC#4 x nn
  | .drw x y n => formatR 0xD#4 x y n
  | .skp x => formatF 0xE#4 x 0x9E#8
  | .sknp x => formatF 0xE#4 x 0xA1#8
  | .ldVxDt x => formatF 0xF#4 x 0x07#8
  | .ldVxK x => formatF 0xF#4 x 0x0A#8
  | .ldDtVx x => formatF 0xF#4 x 0x15#8
  | .ldStVx x => formatF 0xF#4 x 0x18#8
  | .addI x => formatF 0xF#4 x 0x1E#8
  | .ldF x => formatF 0xF#4 x 0x29#8
  | .ldB x => formatF 0xF#4 x 0x33#8
  | .ldMemVx x => formatF 0xF#4 x 0x55#8
  | .ldVxMem x => formatF 0xF#4 x 0x65#8

/-- The two bytes of a word, high byte first (20_memory.md R64). -/
def bytesOfWord (w : Word) : List Byte := [w.extractLsb' 8 8, w.extractLsb' 0 8]

/-- The bytes of an instruction as memory holds them. -/
def encode (i : Instr) : List Byte := bytesOfWord (encodeWord i)

/-- The (mask, match) columns of an instruction's row of the opcode table (30_encoding.md R93). -/
def Instr.maskMatch : Instr → Word × Word
  | .cls => (0xFFFF#16, 0x00E0#16)
  | .ret => (0xFFFF#16, 0x00EE#16)
  | .sys _ => (0xF000#16, 0x0000#16)
  | .jp _ => (0xF000#16, 0x1000#16)
  | .call _ => (0xF000#16, 0x2000#16)
  | .seImm _ _ => (0xF000#16, 0x3000#16)
  | .sneImm _ _ => (0xF000#16, 0x4000#16)
  | .seReg _ _ => (0xF00F#16, 0x5000#16)
  | .ldImm _ _ => (0xF000#16, 0x6000#16)
  | .addImm _ _ => (0xF000#16, 0x7000#16)
  | .ldReg _ _ => (0xF00F#16, 0x8000#16)
  | .orReg _ _ => (0xF00F#16, 0x8001#16)
  | .andReg _ _ => (0xF00F#16, 0x8002#16)
  | .xorReg _ _ => (0xF00F#16, 0x8003#16)
  | .addReg _ _ => (0xF00F#16, 0x8004#16)
  | .subReg _ _ => (0xF00F#16, 0x8005#16)
  | .shr _ _ => (0xF00F#16, 0x8006#16)
  | .subn _ _ => (0xF00F#16, 0x8007#16)
  | .shl _ _ => (0xF00F#16, 0x800E#16)
  | .sneReg _ _ => (0xF00F#16, 0x9000#16)
  | .ldI _ => (0xF000#16, 0xA000#16)
  | .jpV0 _ => (0xF000#16, 0xB000#16)
  | .rnd _ _ => (0xF000#16, 0xC000#16)
  | .drw _ _ _ => (0xF000#16, 0xD000#16)
  | .skp _ => (0xF0FF#16, 0xE09E#16)
  | .sknp _ => (0xF0FF#16, 0xE0A1#16)
  | .ldVxDt _ => (0xF0FF#16, 0xF007#16)
  | .ldVxK _ => (0xF0FF#16, 0xF00A#16)
  | .ldDtVx _ => (0xF0FF#16, 0xF015#16)
  | .ldStVx _ => (0xF0FF#16, 0xF018#16)
  | .addI _ => (0xF0FF#16, 0xF01E#16)
  | .ldF _ => (0xF0FF#16, 0xF029#16)
  | .ldB _ => (0xF0FF#16, 0xF033#16)
  | .ldMemVx _ => (0xF0FF#16, 0xF055#16)
  | .ldVxMem _ => (0xF0FF#16, 0xF065#16)

/-- The two bytes of a word that is given as a number with bit 0 its least significant bit, the bits at and above
`nbits` being zero: high byte first, as the hardware stores it (20_memory.md R64). -/
def tableWordBytes (nbits w : Nat) : List Byte := bytesOfWord (BitVec.ofNat 16 (w % 2 ^ nbits))

/-- The instruction the decoder reads from a word of the opcode table. -/
def decodeTableWord (nbits w : Nat) : Option Instr :=
  match decode (tableWordBytes nbits w) with
  | .ok (i, _) => some i
  | .error _ => none

end Sys2Proof
end

