-- ==== Sys2Proof/Config.lean ====
section
/-! DEFINITION. What is fixed for this hardware (00_scope.md R11) and the parameters the spec leaves open (R12):
the font table, the frame period, the clock readings and random bytes the environment supplies, and the I-advance setting. -/

namespace Sys2Proof.Config

/-- MEM_SIZE (00_scope.md R11). -/
def memSize : Nat := 4096

/-- ENTRY: the program entry point and load address (00_scope.md R11). -/
def entry : Word := 0x0200#16

/-- MAX_ROM: the longest loadable program in bytes, 4096 − 0x200 (00_scope.md R11). -/
def maxRom : Nat := 3584

/-- FONT[0..39], the glyphs 0 to 7 of the spec's default table (10_state.md R41).
PRESUMED (the spec marks the bytes as general knowledge), unsafe: log 5. -/
def fontLow : List Byte :=
  [0xF0, 0x90, 0x90, 0x90, 0xF0] ++ [0x20, 0x60, 0x20, 0x20, 0x70] ++
  [0xF0, 0x10, 0xF0, 0x80, 0xF0] ++ [0xF0, 0x10, 0xF0, 0x10, 0xF0] ++
  [0x90, 0x90, 0xF0, 0x10, 0x10] ++ [0xF0, 0x80, 0xF0, 0x10, 0xF0] ++
  [0xF0, 0x80, 0xF0, 0x90, 0xF0] ++ [0xF0, 0x10, 0x20, 0x40, 0x40]

/-- FONT[40..79], the glyphs 8 to F of the spec's default table (10_state.md R41).
PRESUMED, unsafe: log 5. -/
def fontHigh : List Byte :=
  [0xF0, 0x90, 0xF0, 0x90, 0xF0] ++ [0xF0, 0x90, 0xF0, 0x10, 0xF0] ++
  [0xF0, 0x90, 0xF0, 0x90, 0x90] ++ [0xE0, 0x90, 0xE0, 0x90, 0xE0] ++
  [0xF0, 0x80, 0x80, 0x80, 0xF0] ++ [0xE0, 0x90, 0x90, 0x90, 0xE0] ++
  [0xF0, 0x80, 0xF0, 0x80, 0xF0] ++ [0xF0, 0x80, 0xF0, 0x80, 0x80]

/-- FONT[0..79] (10_state.md R41). -/
def font : List Byte := fontLow ++ fontHigh

/-- One less than FRAME_PERIOD: an open parameter of the hardware (00_scope.md R12(b)), so a constant with no body.
DESIGN CHOICE of the form (the spec asks only for a positive number), safe: log 3. -/
opaque framePeriodLessOne : Nat

/-- FRAME_PERIOD: the length of 1/60 second in the unit of `now`, a positive natural number (00_scope.md R12(b)). -/
def framePeriod : Nat := framePeriodLessOne + 1

/-- LOAD_STORE_ADVANCES_I: whether FX55 and FX65 leave I advanced. This hardware takes `false`
(00_scope.md R12(d), 44_index_memory.md R184). UNVERIFIED (the spec's decision D15), unsafe: log 15. -/
def loadStoreAdvancesI : Bool := false

/-- The clock reading `now` of the n-th operation the environment supplies by itself: a free value
(47_frame_and_key_events.md R210). DESIGN CHOICE of the form, safe: log 2. -/
opaque clock : Nat → Nat

/-- The random byte `rnd` of the n-th Step the environment supplies by itself: a free value under no law
(43_load_alu.md R171). DESIGN CHOICE of the form, safe: log 4. -/
opaque randomByte : Nat → Byte

end Sys2Proof.Config
end

