-- ==== Sys2Proof/Machine/State.lean ====
section
/-! DEFINITION. The state of the core (10_state.md), the environment's operations (00_scope.md R8), the reasons a
step could stop, and the state after reset (10_state.md R40, 70_reset_and_hazards.md R260). -/

namespace Sys2Proof.Machine

/-- The six operations the environment invokes (00_scope.md R8). -/
inductive Op where
  /-- `Reset(now)` (70_reset_and_hazards.md R260) -/
  | reset (now : Nat)
  /-- `Load(bytes, now)` (20_memory.md R72) -/
  | load (bytes : List Byte) (now : Nat)
  /-- `Step(now, rnd)` (40_step_cycle.md R120) -/
  | step (now : Nat) (rnd : Byte)
  /-- `VblankCheck(now)` (47_frame_and_key_events.md R212) -/
  | vblankCheck (now : Nat)
  /-- `Press(k)` (47_frame_and_key_events.md R216) -/
  | press (k : Nib)
  /-- `Release(k)` (47_frame_and_key_events.md R217) -/
  | release (k : Nib)
  deriving DecidableEq, Repr

/-- The memory: the bytes that differ from the reset image, as (address, byte) pairs in strictly rising order of
address; every other address reads as the reset image does (20_memory.md R67). -/
abbrev Memory := List Host.Cell

/-- The display buffer: `disp[y][x]`, 32 rows of 64 cells, `true` for a cell that is 1 (10_state.md R32).
A cell is one bit of information; that the presenter reads it as a byte 0 or 1 is `frameBuffer` (log 31). -/
abbrev Display := Vector (Vector Bool 64) 32

/-- The complete state of the core (10_state.md, the tuple at its top), and three fields of the model's own that hold
what the environment supplies (logs 1, 2 and 4). -/
structure State where
  /-- V[0..15]; `V[15]` is the flag register VF (R20, R21) -/
  v : Vector Byte 16
  /-- I: 16 bits of storage, 12 significant (R22) -/
  i : Word
  /-- the program counter (R23) -/
  pc : Word
  /-- the sixteen stack slots (R25) -/
  stack : Vector Word 16
  /-- the stack pointer, 0..16: the next free slot (R26) -/
  sp : Fin 17
  /-- DT, the delay timer (R27) -/
  dt : Byte
  /-- ST, the sound timer (R28) -/
  st : Byte
  /-- keys[0..15] (R29) -/
  keys : Vector Bool 16
  /-- last_key, the most recently pressed key code (R30) -/
  lastKey : Nib
  /-- mem[0..4095] (R31) -/
  mem : Memory
  /-- disp[0..31][0..63] (R32) -/
  disp : Display
  /-- key_wait (R33) -/
  keyWait : Bool
  /-- key_reg, the destination register of the key wait (R33) -/
  keyReg : Nib
  /-- vblank_wait (R34) -/
  vblankWait : Bool
  /-- the next frame deadline (R36) -/
  deadline : Nat
  /-- ERR, four sticky flags (R37) -/
  err : BitVec 4
  /-- MODEL'S OWN: the environment's operations still to be performed, oldest first (log 1) -/
  inputs : List Op
  /-- MODEL'S OWN: the counter the free clock readings and random bytes are applied to (logs 2 and 4) -/
  tick : Nat
  /-- MODEL'S OWN: the `rnd` argument of the Step that is executing (log 4) -/
  rndIn : Byte
  deriving DecidableEq, Repr

/-- The machine has no fault: "No instruction and no event ever causes a transfer of control other than the one its own
rule gives" and every abnormal condition is stepped over (60_exceptions.md R230, R232). So there is no constructor;
nothing raises one (log 24). -/
inductive Fault where
  deriving DecidableEq, Repr

/-- Why an instruction has no meaning. -/
inductive Refusal where
  /-- Raised only by an arm of `exec` whose instruction is not modelled yet, by its mnemonic. No arm is, so nothing
  raises it. Safe: the machine stops where the hardware goes on. -/
  | notModelled (mnemonic : String)
  deriving DecidableEq, Repr

/-- The state `Reset(now)` leaves (10_state.md R40, 70_reset_and_hazards.md R260), the model's own fields at the values
of logs 1, 2 and 4. -/
def State.resetAt (now : Nat) : State where
  v := Vector.replicate 16 0#8
  i := 0#16
  pc := Config.entry
  stack := Vector.replicate 16 0#16
  sp := 0
  dt := 0#8
  st := 0#8
  keys := Vector.replicate 16 false
  lastKey := 0#4
  mem := []
  disp := Vector.replicate 32 (Vector.replicate 64 false)
  keyWait := false
  keyReg := 0#4
  vblankWait := false
  deadline := now + Config.framePeriod
  err := 0#4
  inputs := []
  tick := 1
  rndIn := 0#8

/-- The machine right after reset: the result of `Reset(now0)` for an arbitrary clock reading `now0`
(70_reset_and_hazards.md R261). -/
def State.reset : State := State.resetAt (Config.clock 0)

end Sys2Proof.Machine
end

