-- ==== Sys2Proof/Machine/Ops.lean ====
section
/-! DEFINITION. The named operations over registers, memory and control state that the instruction rules use
(00_scope.md R15, R16). -/

namespace Sys2Proof.Machine

/-! ### Memory -/

/-- What an address reads as when nothing is listed for it: the reset image, FONT in 0..79 and zero elsewhere
(20_memory.md R70). -/
def Memory.background (a : Nat) : Byte := if a < 80 then Config.font.getD a 0#8 else 0#8

/-- The byte at an address already in range. -/
def Memory.lookup : Memory → Nat → Byte
  | [], a => Memory.background a
  | (k, b) :: m, a => if a = k then b else Memory.lookup m a

/-- `(a, b)` put in front of `m`, unless `b` is what `a` reads as unlisted: the canonical form lists no such entry. -/
def Memory.push (a : Nat) (b : Byte) (m : Memory) : Memory :=
  if b = Memory.background a then m else (a, b) :: m

/-- The memory with byte `b` at the address `a`, in canonical form. -/
def Memory.store : Memory → Nat → Byte → Memory
  | [], a, b => Memory.push a b []
  | (k, c) :: m, a, b =>
    if a < k then Memory.push a b ((k, c) :: m)
    else if a = k then Memory.push a b m
    else (k, c) :: Memory.store m a b

/-- The canonical form: addresses strictly rising and inside the 4096 bytes, and no entry equal to what its address
reads as unlisted. -/
def Memory.wf (m : Memory) : Bool :=
  decide (m.Pairwise fun p q => p.1 < q.1) &&
    m.all fun c => decide (c.1 < Config.memSize) && c.2 != Memory.background c.1

/-- `addr & 0x0FFF`: the 12-bit mask every memory address goes through (20_memory.md R61). -/
def maskAddr (a : Nat) : Nat := a % Config.memSize

/-- `MemRead(addr, 1)` (20_memory.md R61). -/
def State.memRead (s : State) (a : Nat) : Byte := s.mem.lookup (maskAddr a)

/-- `MemWrite(addr, 1, v)` (20_memory.md R62). -/
def State.memWrite (s : State) (a : Nat) (b : Byte) : State :=
  { s with mem := s.mem.store (maskAddr a) b }

/-! ### Registers -/

/-- `V[x]` (10_state.md R20). -/
def State.getV (s : State) (x : Nib) : Byte := s.v[x.toNat]'x.isLt

/-- `V[x] <- b` (10_state.md R20). -/
def State.setV (s : State) (x : Nib) (b : Byte) : State := { s with v := s.v.set x.toNat b x.isLt }

/-- `I <- a`. -/
def State.setI (s : State) (a : Word) : State := { s with i := a }

/-- `pc <- target`. -/
def State.setPc (s : State) (target : Word) : State := { s with pc := target }

/-- `pc <- pc + 2`, modulo 2^16 (10_state.md R24(a)). -/
def State.advance (s : State) : State := s.setPc (s.pc + 2#16)

/-- `pc <- pc + 4` if the condition of a skip is true, `pc <- pc + 2` otherwise (10_state.md R24(b)). -/
def State.skipIf (s : State) (c : Bool) : State := s.setPc (s.pc + if c then 4#16 else 2#16)

/-- `keys[k]` (10_state.md R29). -/
def State.key (s : State) (k : Nib) : Bool := s.keys[k.toNat]'k.isLt

/-- `keys[k] <- b` (10_state.md R29). -/
def State.setKey (s : State) (k : Nib) (b : Bool) : State := { s with keys := s.keys.set k.toNat b k.isLt }

/-! ### The call stack (10_state.md R25, R26) -/

/-- `stack[j]` for a slot of the stack. -/
def State.slot (s : State) (j : Fin 16) : Word := s.stack[j]

/-- `stack[sp] <- a; sp <- sp + 1`, for a stack that is not full: "pushing appends and increments" (10_state.md R26). -/
def State.push (s : State) (a : Word) (notFull : s.sp.val < 16) : State :=
  { s with stack := s.stack.set s.sp.val a notFull, sp := ⟨s.sp.val + 1, by omega⟩ }

/-- `sp <- sp - 1`, then the slot it names, for a stack that is not empty: "popping decrements then reads"
(10_state.md R26). The slot keeps its value. -/
def State.pop (s : State) (notEmpty : 0 < s.sp.val) : Word × State :=
  (s.stack[s.sp.val - 1]'(by omega), { s with sp := ⟨s.sp.val - 1, by omega⟩ })

/-! ### Abnormal conditions (60_exceptions.md R231) -/

/-- The four abnormal conditions. -/
inductive Condition where
  | stackOverflow
  | stackUnderflow
  | unknownOpcode
  | sysIgnored
  deriving DecidableEq, Repr

/-- The mask column of the table of 60_exceptions.md R231. -/
def conditionMask : Condition → BitVec 4
  | .stackOverflow => 0b0001#4
  | .stackUnderflow => 0b0010#4
  | .unknownOpcode => 0b0100#4
  | .sysIgnored => 0b1000#4

/-- `flag <NAME>`: `ERR <- ERR | bit(NAME)` (00_scope.md R16). This is all that meeting an abnormal condition does by
itself: the machine has no exception entry (60_exceptions.md R230, R238). -/
def State.flag (s : State) (c : Condition) : State := { s with err := s.err ||| conditionMask c }

end Sys2Proof.Machine
end

