-- ==== Sys2Proof/Machine/Boot.lean ====
section
/-! DEFINITION. Reset and Load (70_reset_and_hazards.md R260, 20_memory.md R72). -/

namespace Sys2Proof.Machine

open Sys2Proof

/-- `Reset(now)` in any state (70_reset_and_hazards.md R260). The model's own fields, which hold what the environment
supplies, are not the core's and stay (log 1). -/
def resetOp (now : Nat) (s : State) : State :=
  { State.resetAt now with inputs := s.inputs, tick := s.tick, rndIn := s.rndIn }

/-- `mem[base + i] <- bytes[i]` for every `i`, ascending (20_memory.md R72). -/
def copyBytes (base : Nat) : List Byte → State → State
  | [], s => s
  | b :: rest, s => copyBytes (base + 1) rest (s.memWrite base b)

/-- `Load(bytes, now)` with its success result: a full reset, then the bytes at 0x200, failing if there are more than
3584 of them (20_memory.md R72). -/
def load (bytes : List Byte) (now : Nat) (s : State) : State × Bool :=
  if bytes.length ≤ Config.maxRom then (copyBytes Config.entry.toNat bytes (resetOp now s), true)
  else (resetOp now s, false)

end Sys2Proof.Machine
end

