-- ==== Sys2Proof/Machine/Flags.lean ====
section
/-! DEFINITION. Every value an instruction writes to the flag register VF as a side effect (10_state.md R21). -/

namespace Sys2Proof.Machine

/-- VF, that is `V[15]` (10_state.md R21). -/
def vf : Nib := 0xF#4

/-- A condition as the flag value 1 or 0. -/
def flagValue (c : Bool) : Byte := if c then 1#8 else 0#8

/-- `1 if a + b > 255 else 0`, from the true sum (43_load_alu.md R159, R166). -/
def carryFlag (a b : Byte) : Byte := flagValue (decide (255 < a.toNat + b.toNat))

/-- `1 if a >= b else 0`: the subtraction `a - b` needs no borrow (43_load_alu.md R159, R167). -/
def noBorrowFlag (a b : Byte) : Byte := flagValue (decide (b.toNat ≤ a.toNat))

/-- Bit 0, as 0 or 1 (43_load_alu.md R168). -/
def lowBitFlag (b : Byte) : Byte := b &&& 1#8

/-- `(b >> 7) & 1`, bit 7 as 0 or 1 (43_load_alu.md R170). -/
def highBitFlag (b : Byte) : Byte := b >>> 7 &&& 1#8

/-- `V[15] <- b`. -/
def State.setVF (s : State) (b : Byte) : State := s.setV vf b

end Sys2Proof.Machine
end

