-- ==== Sys2Proof/Machine/Operands.lean ====
section
/-! DEFINITION. The operand forms of the instructions: the one addressing mode (44_index_memory.md R179), and what a
register names when it names a key, a glyph, a screen position or a decimal number. -/

namespace Sys2Proof.Machine

/-- The address of the `n`-th byte an instruction touches: `(I + n)`, summed as a natural number and masked once
(44_index_memory.md R179). -/
def State.effAddr (s : State) (n : Nat) : Nat := maskAddr (s.i.toNat + n)

/-- `V[n]` for a loop index `n` (44_index_memory.md R184). -/
def loopReg (n : Nat) : Nib := BitVec.ofNat 4 n

/-- `Vx & 0xF`, the key a register names (42_skip.md R154). -/
def keyOf (b : Byte) : Nib := b.setWidth 4

/-- `(Vx & 0xF) * 5`, the address of the glyph a register names (44_index_memory.md R182). -/
def glyphAddr (b : Byte) : Word := (b &&& 0x0F#8).setWidth 16 * 5#16

/-- `NNN` as a value of I or pc. -/
def addrWord (nnn : Addr12) : Word := nnn.setWidth 16

/-- `V0 + NNN` as a 16-bit value, not masked (41_flow.md R144). -/
def offsetTarget (v0 : Byte) (nnn : Addr12) : Word := v0.setWidth 16 + nnn.setWidth 16

/-- `(I + Vx) & 0x0FFF` (44_index_memory.md R181). -/
def addToI (i : Word) (b : Byte) : Word := (i + b.setWidth 16) &&& 0x0FFF#16

/-- `V[X] mod 64`, the start column of a draw (45_display.md R191). -/
def startColumn (b : Byte) : Nat := b.toNat % 64

/-- `V[Y] mod 32`, the start row of a draw (45_display.md R191). -/
def startRow (b : Byte) : Nat := b.toNat % 32

/-- `v div 100` (44_index_memory.md R183). -/
def hundreds (b : Byte) : Byte := BitVec.ofNat 8 (b.toNat / 100)

/-- `(v div 10) mod 10` (44_index_memory.md R183). -/
def tens (b : Byte) : Byte := BitVec.ofNat 8 (b.toNat / 10 % 10)

/-- `v mod 10` (44_index_memory.md R183). -/
def ones (b : Byte) : Byte := BitVec.ofNat 8 (b.toNat % 10)

end Sys2Proof.Machine
end

