-- ==== Sys2Proof/Machine/Display.lean ====
section
/-! DEFINITION. The display buffer and its two instructions (45_display.md). -/

namespace Sys2Proof.Machine

open Sys2Proof Host

/-- `disp[y][x]`, for `x` in 0..63 and `y` in 0..31; no cell lies outside. -/
def Display.cell (d : Display) (x y : Nat) : Bool :=
  if h : y < 32 ∧ x < 64 then (d[y]'h.1)[x]'h.2 else false

/-- `disp[y][x] <- disp[y][x] ^ 1`; a cell outside 0..63 by 0..31 is clipped (45_display.md R191). -/
def Display.toggle (d : Display) (x y : Nat) : Display :=
  if h : y < 32 ∧ x < 64 then d.set y ((d[y]'h.1).set x (!(d[y]'h.1)[x]'h.2) h.2) h.1 else d

/-- The blank buffer. -/
def blankDisplay : Display := Vector.replicate 32 (Vector.replicate 64 false)

/-- The buffer as the presenter reads it: 2048 bytes 0 or 1, row-major, cell (x, y) at `y * 64 + x`
(10_state.md R32, 45_display.md R189, R193). -/
def State.frameBuffer (s : State) : List Byte :=
  (s.disp.toList.map fun row => row.toList.map flagValue).flatten

/-- 00E0, CLS (45_display.md R190). -/
def execCls (s : State) : Outcome State Fault Refusal := .next { s with disp := blankDisplay }.advance

/-- Bit `7 − col` of a sprite byte: the cell of column `col` (45_display.md R189).
PRESUMED (the spec marks the bit order as general knowledge), unsafe: log 6. -/
def spriteBit (b : Byte) (col : Nat) : Bool := b.getLsbD (7 - col)

/-- One set sprite bit at `(x, y)`: the collision is noted if the cell is 1, then the cell is toggled
(45_display.md R191). The second component says whether a cell went from 1 to 0 so far. -/
def drawCell (c : Display × Bool) (x y : Nat) : Display × Bool :=
  (c.1.toggle x y, c.2 || c.1.cell x y)

/-- One row byte of a sprite at `(x0, y)`, column 0 first (45_display.md R191). -/
def drawRow (b : Byte) (x0 y : Nat) (c : Display × Bool) : Display × Bool :=
  (List.range 8).foldl (fun c col => if spriteBit b col then drawCell c (x0 + col) y else c) c

/-- The rows of a sprite of `n` bytes at `(x0, y0)`, row 0 first, the bytes read from memory at I
(45_display.md R191). -/
def drawSprite (s : State) (x0 y0 n : Nat) : Display × Bool :=
  (List.range n).foldl (fun c row => drawRow (s.memRead (s.effAddr row)) x0 (y0 + row) c) (s.disp, false)

/-- The cells, VF and the armed vblank wait of a draw, and the advance (45_display.md R191). -/
def finishDraw (s : State) (drawn : Display × Bool) : State :=
  ({ s with disp := drawn.1, vblankWait := true }.setVF (flagValue drawn.2)).advance

/-- DXYN, DRW Vx, Vy, N (45_display.md R191): the position is read first, then the sprite is drawn from a cleared
flag, and the vblank wait is armed. -/
def execDrw (x y n : Nib) (s : State) : Outcome State Fault Refusal :=
  .next (finishDraw s (drawSprite s (startColumn (s.getV x)) (startRow (s.getV y)) n.toNat))

end Sys2Proof.Machine
end

