-- ==== Sys2Proof/Machine/Flow.lean ====
section
/-! DEFINITION. Control flow (41_flow.md): SYS, RET, JP, CALL, JP V0, and the unrecognized opcode. `pc` is the address
the instruction was fetched from. -/

namespace Sys2Proof.Machine

open Sys2Proof Host

/-- 0NNN, SYS (41_flow.md R140): `flag SysIgnored; pc <- pc + 2`. NNN is not used. -/
def execSys (_nnn : Addr12) (s : State) : Outcome State Fault Refusal :=
  .next (s.flag .sysIgnored).advance

/-- 00EE, RET (41_flow.md R141): on an empty stack `flag StackUnderflow` and a no-op; else `sp <- sp - 1` and
`pc <- stack[sp] + 2`. -/
def execRet (s : State) : Outcome State Fault Refusal :=
  if h : 0 < s.sp.val then .next ((s.pop h).2.setPc ((s.pop h).1 + 2#16))
  else .next (s.flag .stackUnderflow).advance

/-- 1NNN, JP (41_flow.md R142): `pc <- NNN`. -/
def execJp (nnn : Addr12) (s : State) : Outcome State Fault Refusal := .next (s.setPc (addrWord nnn))

/-- The push of a CALL: the address of the 2NNN itself, or on a full stack `flag StackOverflow` and nothing pushed
(41_flow.md R143). -/
def pushCall (s : State) : State :=
  if h : s.sp.val < 16 then s.push s.pc h else s.flag .stackOverflow

/-- 2NNN, CALL (41_flow.md R143): the push, then `pc <- NNN` in both cases. -/
def execCall (nnn : Addr12) (s : State) : Outcome State Fault Refusal :=
  .next ((pushCall s).setPc (addrWord nnn))

/-- BNNN, JP V0 (41_flow.md R144): `pc <- V[0] + NNN`, not masked. -/
def execJpV0 (nnn : Addr12) (s : State) : Outcome State Fault Refusal :=
  .next (s.setPc (offsetTarget (s.getV 0#4) nnn))

/-- A word that matches no pattern (41_flow.md R145): `flag UnknownOpcode; pc <- pc + 2`. -/
def execUnrecognized (s : State) : Outcome State Fault Refusal :=
  .next (s.flag .unknownOpcode).advance

end Sys2Proof.Machine
end

