-- ==== Sys2Proof/Machine/IndexMemory.lean ====
section
/-! DEFINITION. The address register and memory transfer (44_index_memory.md). -/

namespace Sys2Proof.Machine

open Sys2Proof Host

/-- ANNN, LD I, NNN (44_index_memory.md R180). -/
def execLdI (nnn : Addr12) (s : State) : Outcome State Fault Refusal :=
  .next (s.setI (addrWord nnn)).advance

/-- FX1E, ADD I, Vx (44_index_memory.md R181): masked to 12 bits, VF unaffected. -/
def execAddI (x : Nib) (s : State) : Outcome State Fault Refusal :=
  .next (s.setI (addToI s.i (s.getV x))).advance

/-- FX29, LD F, Vx (44_index_memory.md R182). -/
def execLdF (x : Nib) (s : State) : Outcome State Fault Refusal :=
  .next (s.setI (glyphAddr (s.getV x))).advance

/-- The three writes of FX33: hundreds, tens and ones at I, I + 1 and I + 2 (44_index_memory.md R183). -/
def storeDigits (b : Byte) (s : State) : State :=
  ((s.memWrite (s.effAddr 0) (hundreds b)).memWrite (s.effAddr 1) (tens b)).memWrite (s.effAddr 2) (ones b)

/-- FX33, LD B, Vx (44_index_memory.md R183). -/
def execLdB (x : Nib) (s : State) : Outcome State Fault Refusal :=
  .next (storeDigits (s.getV x) s).advance

/-- `MemWrite(I + n, 1, V[n])`, one iteration of FX55 (44_index_memory.md R184). -/
def storeReg (s : State) (n : Nat) : State := s.memWrite (s.effAddr n) (s.getV (loopReg n))

/-- `V[n] <- MemRead(I + n, 1)`, one iteration of FX65 (44_index_memory.md R185). -/
def loadReg (s : State) (n : Nat) : State := s.setV (loopReg n) (s.memRead (s.effAddr n))

/-- The first `count` iterations of FX55, ascending. -/
def storeRegs (s : State) (count : Nat) : State := (List.range count).foldl storeReg s

/-- The first `count` iterations of FX65, ascending. -/
def loadRegs (s : State) (count : Nat) : State := (List.range count).foldl loadReg s

/-- I after an FX55 or FX65 of X: unchanged, or with LOAD_STORE_ADVANCES_I set `(I + X + 1) & 0x0FFF`
(44_index_memory.md R184). -/
def indexAfterTransfer (advances : Bool) (i : Word) (x : Nib) : Word :=
  if advances then (i + x.setWidth 16 + 1#16) &&& 0x0FFF#16 else i

/-- FX55 under a setting of LOAD_STORE_ADVANCES_I (44_index_memory.md R184). -/
def storeTransfer (advances : Bool) (x : Nib) (s : State) : State :=
  ((storeRegs s (x.toNat + 1)).setI (indexAfterTransfer advances s.i x)).advance

/-- FX65 under a setting of LOAD_STORE_ADVANCES_I (44_index_memory.md R185). -/
def loadTransfer (advances : Bool) (x : Nib) (s : State) : State :=
  ((loadRegs s (x.toNat + 1)).setI (indexAfterTransfer advances s.i x)).advance

/-- FX55, LD [I], Vx (44_index_memory.md R184). -/
def execLdMemVx (x : Nib) (s : State) : Outcome State Fault Refusal :=
  .next (storeTransfer Config.loadStoreAdvancesI x s)

/-- FX65, LD Vx, [I] (44_index_memory.md R185). -/
def execLdVxMem (x : Nib) (s : State) : Outcome State Fault Refusal :=
  .next (loadTransfer Config.loadStoreAdvancesI x s)

end Sys2Proof.Machine
end

