-- ==== Sys2Proof/Machine/LoadAlu.lean ====
section
/-! DEFINITION. Register loads and arithmetic (43_load_alu.md). The effects happen in the order each rule lists them, a
later one seeing the registers an earlier one wrote (40_step_cycle.md R129, log 17). -/

namespace Sys2Proof.Machine

open Sys2Proof Host

/-- `V[X] <- r; V[15] <- f; pc <- pc + 2`: a result, the flag written after it, and the advance
(43_load_alu.md R163 to R167, R169). -/
def resultThenFlag (s : State) (x : Nib) (r f : Byte) : State := ((s.setV x r).setVF f).advance

/-- 6XNN, LD Vx, NN (43_load_alu.md R160). -/
def execLdImm (x : Nib) (nn : Byte) (s : State) : Outcome State Fault Refusal :=
  .next (s.setV x nn).advance

/-- 7XNN, ADD Vx, NN (43_load_alu.md R161): VF is not written as a flag. -/
def execAddImm (x : Nib) (nn : Byte) (s : State) : Outcome State Fault Refusal :=
  .next (s.setV x (s.getV x + nn)).advance

/-- 8XY0, LD Vx, Vy (43_load_alu.md R162). -/
def execLdReg (x y : Nib) (s : State) : Outcome State Fault Refusal :=
  .next (s.setV x (s.getV y)).advance

/-- 8XY1, OR Vx, Vy (43_load_alu.md R163): VF is forced to 0 afterward. -/
def execOrReg (x y : Nib) (s : State) : Outcome State Fault Refusal :=
  .next (resultThenFlag s x (s.getV x ||| s.getV y) 0#8)

/-- 8XY2, AND Vx, Vy (43_load_alu.md R164): VF is forced to 0 afterward. -/
def execAndReg (x y : Nib) (s : State) : Outcome State Fault Refusal :=
  .next (resultThenFlag s x (s.getV x &&& s.getV y) 0#8)

/-- 8XY3, XOR Vx, Vy (43_load_alu.md R165): VF is forced to 0 afterward. -/
def execXorReg (x y : Nib) (s : State) : Outcome State Fault Refusal :=
  .next (resultThenFlag s x (s.getV x ^^^ s.getV y) 0#8)

/-- 8XY4, ADD Vx, Vy (43_load_alu.md R166): both operands are read before any write. -/
def execAddReg (x y : Nib) (s : State) : Outcome State Fault Refusal :=
  .next (resultThenFlag s x (s.getV x + s.getV y) (carryFlag (s.getV x) (s.getV y)))

/-- 8XY5, SUB Vx, Vy (43_load_alu.md R167). -/
def execSubReg (x y : Nib) (s : State) : Outcome State Fault Refusal :=
  .next (resultThenFlag s x (s.getV x - s.getV y) (noBorrowFlag (s.getV x) (s.getV y)))

/-- 8XY7, SUBN Vx, Vy (43_load_alu.md R169): Vy minus Vx. -/
def execSubn (x y : Nib) (s : State) : Outcome State Fault Refusal :=
  .next (resultThenFlag s x (s.getV y - s.getV x) (noBorrowFlag (s.getV y) (s.getV x)))

/-- `V[X] <- V[Y]; V[15] <- flag of V[X]; V[X] <- shifted V[X]; pc <- pc + 2`: the three lines of the two shifts, in
their literal order (43_load_alu.md R168, R170). -/
def copyFlagShift (s : State) (x y : Nib) (flagOf shift : Byte → Byte) : State :=
  let copied := s.setV x (s.getV y)
  let flagged := copied.setVF (flagOf (copied.getV x))
  (flagged.setV x (shift (flagged.getV x))).advance

/-- 8XY6, SHR Vx, Vy (43_load_alu.md R168). -/
def execShr (x y : Nib) (s : State) : Outcome State Fault Refusal :=
  .next (copyFlagShift s x y lowBitFlag (· >>> 1))

/-- 8XYE, SHL Vx, Vy (43_load_alu.md R170). -/
def execShl (x y : Nib) (s : State) : Outcome State Fault Refusal :=
  .next (copyFlagShift s x y highBitFlag (· <<< 1))

/-- CXNN, RND Vx, NN (43_load_alu.md R171): `rnd` is the random byte of the Step that executes the instruction. -/
def execRnd (x : Nib) (nn : Byte) (s : State) : Outcome State Fault Refusal :=
  .next (s.setV x (s.rndIn &&& nn)).advance

end Sys2Proof.Machine
end

