-- ==== Sys2Proof/Machine/Skip.lean ====
section
/-! DEFINITION. The six conditional skips (42_skip.md). Their only effect is on pc. -/

namespace Sys2Proof.Machine

open Sys2Proof Host

/-- 3XNN, SE Vx, NN (42_skip.md R150). -/
def execSeImm (x : Nib) (nn : Byte) (s : State) : Outcome State Fault Refusal :=
  .next (s.skipIf (s.getV x == nn))

/-- 4XNN, SNE Vx, NN (42_skip.md R151). -/
def execSneImm (x : Nib) (nn : Byte) (s : State) : Outcome State Fault Refusal :=
  .next (s.skipIf (s.getV x != nn))

/-- 5XY0, SE Vx, Vy (42_skip.md R152). -/
def execSeReg (x y : Nib) (s : State) : Outcome State Fault Refusal :=
  .next (s.skipIf (s.getV x == s.getV y))

/-- 9XY0, SNE Vx, Vy (42_skip.md R153). -/
def execSneReg (x y : Nib) (s : State) : Outcome State Fault Refusal :=
  .next (s.skipIf (s.getV x != s.getV y))

/-- EX9E, SKP Vx (42_skip.md R154): skip if `keys[Vx & 0xF]` is pressed. -/
def execSkp (x : Nib) (s : State) : Outcome State Fault Refusal :=
  .next (s.skipIf (s.key (keyOf (s.getV x))))

/-- EXA1, SKNP Vx (42_skip.md R155): skip if `keys[Vx & 0xF]` is not pressed. -/
def execSknp (x : Nib) (s : State) : Outcome State Fault Refusal :=
  .next (s.skipIf (!s.key (keyOf (s.getV x))))

end Sys2Proof.Machine
end

