-- ==== Sys2Proof/Machine/TimerKey.lean ====
section
/-! DEFINITION. The timer and key-wait instructions (46_timer_key_instr.md). -/

namespace Sys2Proof.Machine

open Sys2Proof Host

/-- FX07, LD Vx, DT (46_timer_key_instr.md R200). -/
def execLdVxDt (x : Nib) (s : State) : Outcome State Fault Refusal := .next (s.setV x s.dt).advance

/-- FX0A, LD Vx, K (46_timer_key_instr.md R201): the key wait is entered; neither pc nor V[X] changes. -/
def execLdVxK (x : Nib) (s : State) : Outcome State Fault Refusal :=
  .next { s with keyWait := true, keyReg := x }

/-- FX15, LD DT, Vx (46_timer_key_instr.md R202). -/
def execLdDtVx (x : Nib) (s : State) : Outcome State Fault Refusal := .next { s with dt := s.getV x }.advance

/-- FX18, LD ST, Vx (46_timer_key_instr.md R203). -/
def execLdStVx (x : Nib) (s : State) : Outcome State Fault Refusal := .next { s with st := s.getV x }.advance

end Sys2Proof.Machine
end

