-- ==== Sys2Proof/Machine/Frame.lean ====
section
/-! DEFINITION. The frame clock, the frame gate and VblankCheck (47_frame_and_key_events.md). Nothing here is an
instruction. -/

namespace Sys2Proof.Machine

open Sys2Proof

/-- A timer after a gate: down by 1 at a due gate when nonzero, never below 0 (47_frame_and_key_events.md R211). -/
def timerAfterGate (due : Bool) (t : Byte) : Byte := if t = 0#8 then 0#8 else if due then t - 1#8 else t

/-- The boundary counts as reached when `now >= deadline` (47_frame_and_key_events.md R211, R214). -/
def State.due (s : State) (now : Nat) : Bool := decide (s.deadline ≤ now)

/-- "repeat deadline <- deadline + FRAME_PERIOD until deadline > now", for a deadline that is not after `now`: the number
of rounds is the least that passes `now` (47_frame_and_key_events.md R211). That this is the literal loop is
`catchUp_loop` of Sys2Proof/Laws/Frame.lean. -/
def catchUp (period now deadline : Nat) : Nat := deadline + ((now - deadline) / period + 1) * period

/-- The gate in its due-bit form (47_frame_and_key_events.md R214): if due, both timers tick and the vblank wait
clears. Written field by field, so that the other fields do not depend on `due`. -/
def gateDue (due : Bool) (s : State) : State :=
  { s with
    dt := timerAfterGate due s.dt
    st := timerAfterGate due s.st
    vblankWait := s.vblankWait && !due }

/-- `FrameGate(now)` (47_frame_and_key_events.md R211): the due-bit form, and the deadline caught up if due. -/
def frameGate (now : Nat) (s : State) : State :=
  { gateDue (s.due now) s with
    deadline := if s.due now then catchUp Config.framePeriod now s.deadline else s.deadline }

/-- `VblankCheck(now)`: exactly the gate, with its `due` result (47_frame_and_key_events.md R212). -/
def vblankCheck (now : Nat) (s : State) : State × Bool := (frameGate now s, s.due now)

end Sys2Proof.Machine
end

