-- ==== Sys2Proof/Machine/Keypad.lean ====
section
/-! DEFINITION. The keypad events Press and Release (47_frame_and_key_events.md). Nothing here is an instruction. -/

namespace Sys2Proof.Machine

open Sys2Proof

/-- `Press(k)`: `keys[k] <- true; last_key <- k` (47_frame_and_key_events.md R216). -/
def press (k : Nib) (s : State) : State := { s.setKey k true with lastKey := k }

/-- The end of a key wait: `V[key_reg] <- last_key`, pc advances by one instruction and the latch clears
(47_frame_and_key_events.md R217). -/
def endKeyWait (s : State) : State :=
  { (s.setV s.keyReg (s.lastKey.setWidth 8)).advance with keyWait := false }

/-- `Release(k)`: `keys[k] <- false`, and the end of a pending key wait (47_frame_and_key_events.md R217). -/
def release (k : Nib) (s : State) : State :=
  if s.keyWait then endKeyWait (s.setKey k false) else s.setKey k false

end Sys2Proof.Machine
end

