-- ==== Sys2Proof/Machine/Cycle.lean ====
section
/-! DEFINITION. The Step operation (40_step_cycle.md R120) and the six operations as one function of the state
(00_scope.md R8). -/

namespace Sys2Proof.Machine

open Sys2Proof Host

/-- The two bytes at `[pc, pc+1]`, each address masked on its own (20_memory.md R63). -/
def State.fetchBytes (s : State) : List Byte := [s.memRead s.pc.toNat, s.memRead (s.pc.toNat + 1)]

/-- Execute the instruction the fetched bytes decode to; bytes that decode to none take the effect of an unrecognized
opcode (40_step_cycle.md R126, 41_flow.md R145). -/
def execBytes (bytes : List Byte) (s : State) : Outcome State Fault Refusal :=
  match decode bytes with
  | .ok (i, _) => exec i s
  | .error _ => execUnrecognized s

/-- Case 3 of Step: fetch, decode, dispatch, execute, with the random byte of this Step (40_step_cycle.md R120). -/
def runInstruction (rnd : Byte) (s : State) : Outcome State Fault Refusal :=
  execBytes s.fetchBytes { s with rndIn := rnd }

/-- `Step(now, rnd)` (40_step_cycle.md R120): the gate first; then, by the latches as they stood when the Step began,
nothing (vblank wait), nothing (key wait), or one instruction. -/
def stepOp (now : Nat) (rnd : Byte) (s : State) : Outcome State Fault Refusal :=
  if s.vblankWait then .next (frameGate now s)
  else if s.keyWait then .next (frameGate now s)
  else runInstruction rnd (frameGate now s)

/-- One operation of the environment (00_scope.md R8). The results of Load and VblankCheck are those of `load` and
`vblankCheck`; they go to the caller and not into the state (log 26). -/
def perform (op : Op) (s : State) : Outcome State Fault Refusal :=
  match op with
  | .reset now => .next (resetOp now s)
  | .load bytes now => .next (load bytes now s).1
  | .step now rnd => stepOp now rnd s
  | .vblankCheck now => .next (vblankCheck now s).1
  | .press k => .next (press k s)
  | .release k => .next (release k s)

/-- The next operation: the oldest of the environment's list, or where the list is empty a Step whose clock reading and
random byte are free values (log 1). -/
def performNext (s : State) : Outcome State Fault Refusal :=
  match s.inputs with
  | [] => stepOp (Config.clock s.tick) (Config.randomByte s.tick) { s with tick := s.tick + 1 }
  | op :: rest => perform op { s with inputs := rest }

/-- The state with two bytes placed where the next fetch reads them. -/
def State.placeWord (s : State) (bytes : List Byte) : State :=
  (s.memWrite s.pc.toNat (bytes.getD 0 0)).memWrite (s.pc.toNat + 1) (bytes.getD 1 0)

end Sys2Proof.Machine
end

