-- ==== Sys2Proof/Machine/Step.lean ====
section
/-! DEFINITION. One step of the machine: one operation of the environment (00_scope.md R8; log 1). -/

namespace Sys2Proof.Machine

open Sys2Proof

/-- One step: the next operation of the environment, which is a Step where nothing else is pending. -/
def step : State → Host.Outcome State Fault Refusal := performNext

/-- `s` with an instruction word stored where the next step fetches, neither wait active and no other operation
pending, so that the very next step is a Step that executes it (log 27). -/
def State.withFetchWord (s : State) (nbits w : Nat) : State :=
  { s.placeWord (tableWordBytes nbits w) with vblankWait := false, keyWait := false, inputs := [] }

end Sys2Proof.Machine
end

