-- ==== Sys2Proof/Safety.lean ====
section
/-! DEFINITION. What claims are stated in: the engine's state, a run without abnormal conditions, the invariant, the
end of a program, the outputs, and what an instruction leaves unchanged. -/

namespace Sys2Proof.Machine

open Sys2Proof

/-- The three states of the execution engine (10_state.md R35). -/
inductive EngineState where
  | normal
  | awaitingKey (r : Nib)
  | awaitingVblank
  deriving DecidableEq, Repr

/-- The engine's state, read off the two latches (10_state.md R35). In the unreachable combination of both, "the vblank
wait is served first". -/
def State.engine (s : State) : EngineState :=
  if s.vblankWait then .awaitingVblank else if s.keyWait then .awaitingKey s.keyReg else .normal

/-- No abnormal condition has occurred: `ERR = 0` (60_exceptions.md R233). -/
def State.Safe (s : State) : Prop := s.err = 0#4

/-- The invariant of the machine: memory in canonical form, `I <= 0x0FFF` (10_state.md R22), and at most one wait active
(10_state.md R35). -/
def State.Inv (s : State) : Prop :=
  s.mem.wf = true ∧ s.i.toNat ≤ 0x0FFF ∧ ¬ (s.keyWait = true ∧ s.vblankWait = true)

/-- The program has finished: `pc` holds the address of a `1NNN` whose NNN equals that address. DESIGN CHOICE: the spec
leaves it to the model what counts as the end of a run and names this as one possibility, a number of operations as
another (40_step_cycle.md R131, 70_reset_and_hazards.md R264, D28; log 35). -/
def State.Finished (s : State) : Prop :=
  ∃ nnn, decode s.fetchBytes = .ok (.jp nnn, []) ∧ addrWord nnn = s.pc

/-- What the environment may read between operations (00_scope.md R10). -/
structure Outputs where
  /-- the 2048 display cells, row-major, each 0 or 1 (45_display.md R193) -/
  frameBuffer : List Byte
  /-- the delay timer byte -/
  dt : Byte
  /-- the sound timer byte -/
  st : Byte
  /-- the sticky error flags -/
  err : BitVec 4
  deriving DecidableEq, Repr

/-- The outputs of a state (00_scope.md R10). -/
def State.outputs (s : State) : Outputs := ⟨s.frameBuffer, s.dt, s.st, s.err⟩

/-! ### Frames -/

/-- What an instruction may change besides pc: the registers and the (masked) memory addresses it writes, and which of
the other parts of the state it writes at all. -/
structure Footprint where
  regs : List Nib := []
  mem : List Nat := []
  index : Bool := false
  stack : Bool := false
  dt : Bool := false
  st : Bool := false
  keyLatch : Bool := false
  vblankLatch : Bool := false
  disp : Bool := false
  err : Bool := false
  deriving DecidableEq, Repr

/-- From `s` to `t` nothing changes outside the footprint, but perhaps pc: every other register, every byte of memory
outside the listed addresses, every other part of the state; the keypad, the frame deadline and the model's own fields
never. -/
def Frame (f : Footprint) (s t : State) : Prop :=
  (∀ r, r ∉ f.regs → t.getV r = s.getV r) ∧
  (∀ a, maskAddr a ∉ f.mem → t.memRead a = s.memRead a) ∧
  (f.index = false → t.i = s.i) ∧
  (f.stack = false → t.sp = s.sp ∧ ∀ j, t.slot j = s.slot j) ∧
  (f.dt = false → t.dt = s.dt) ∧
  (f.st = false → t.st = s.st) ∧
  (f.keyLatch = false → t.keyWait = s.keyWait ∧ t.keyReg = s.keyReg) ∧
  (f.vblankLatch = false → t.vblankWait = s.vblankWait) ∧
  (f.disp = false → ∀ x y, t.disp.cell x y = s.disp.cell x y) ∧
  (f.err = false → t.err = s.err) ∧
  (∀ k, t.key k = s.key k) ∧ t.lastKey = s.lastKey ∧
  t.deadline = s.deadline ∧
  t.inputs = s.inputs ∧ t.tick = s.tick ∧ t.rndIn = s.rndIn

/-! ### Sprites -/

/-- A set bit of the `n`-row sprite at I, drawn at `(Vx mod 64, Vy mod 32)`, lies on the visible cell `(cx, cy)`: row
`cy − y0` of the sprite is the byte at `I + (cy − y0)`, and column `cx − x0` of it is bit `7 − (cx − x0)`
(45_display.md R189, R191; the bit order is log 6). -/
def SpriteAt (s : State) (x y n : Nib) (cx cy : Nat) : Prop :=
  cx < 64 ∧ cy < 32 ∧
  (s.getV x).toNat % 64 ≤ cx ∧ cx < (s.getV x).toNat % 64 + 8 ∧
  (s.getV y).toNat % 32 ≤ cy ∧ cy < (s.getV y).toNat % 32 + n.toNat ∧
  (s.memRead (s.i.toNat + (cy - (s.getV y).toNat % 32))).getLsbD (7 - (cx - (s.getV x).toNat % 64)) = true

/-- `t` has what a DRW of `x` and `y` reads in `s` besides the cells: Vx, Vy, I and the bytes of memory
(45_display.md R192). -/
def SameDraw (x y : Nib) (s t : State) : Prop :=
  t.getV x = s.getV x ∧ t.getV y = s.getV y ∧ t.i = s.i ∧ ∀ a, t.memRead a = s.memRead a

/-! ### Runs of gates (47_frame_and_key_events.md R215) -/

/-- The state after gates at the given clock readings, in order. -/
def gates : List Nat → State → State
  | [], s => s
  | now :: rest, s => gates rest (frameGate now s)

/-- How many of those gates are due. -/
def dueCount : List Nat → State → Nat
  | [], _ => 0
  | now :: rest, s => (if s.due now then 1 else 0) + dueCount rest (frameGate now s)

end Sys2Proof.Machine
end

