-- ==== Sys2Proof/Certificates/Slice0/Obligations.lean ====
section
/-! DEFINITION. The statements for the provers. Each docstring names the rule of spec/ it formalises, and the log entry
or the spec's decision where it rests on one. -/

open Sys2Proof Sys2Proof.Machine Host

/-! ### Reset and Load -/

/-- 70_reset_and_hazards.md R260, 10_state.md R40: what `Reset(now)` leaves, in any state. The zero of V, I, sp, the
slots, the timers, the keys and the latches' registers is the spec's decision D7 (log 7), the deadline D3 (log 8), ERR
D12 (log 13); the font's bytes are log 5. The machine's `State.reset` is that state for an arbitrary reading of the clock
(R261; log 2). -/
def Obligations.ResetLeavesTheResetState : Prop :=
  ∀ (now : Nat) (s : State),
    perform (.reset now) s = .next (resetOp now s) ∧
    (∀ r, (resetOp now s).getV r = 0#8) ∧ (resetOp now s).i = 0#16 ∧ (resetOp now s).pc = 0x0200#16 ∧
    (resetOp now s).sp.val = 0 ∧ (∀ j, (resetOp now s).slot j = 0#16) ∧
    (resetOp now s).dt = 0#8 ∧ (resetOp now s).st = 0#8 ∧
    (∀ k, (resetOp now s).key k = false) ∧ (resetOp now s).lastKey = 0#4 ∧
    (∀ a, a < 80 → (resetOp now s).memRead a = Config.font.getD a 0#8) ∧
    (∀ a, 80 ≤ a → a ≤ 4095 → (resetOp now s).memRead a = 0#8) ∧
    (∀ x y, (resetOp now s).disp.cell x y = false) ∧
    (resetOp now s).keyWait = false ∧ (resetOp now s).keyReg = 0#4 ∧ (resetOp now s).vblankWait = false ∧
    (resetOp now s).err = 0#4 ∧ (resetOp now s).deadline = now + Config.framePeriod ∧
    State.reset = { resetOp (Config.clock 0) s with
      inputs := State.reset.inputs, tick := State.reset.tick, rndIn := State.reset.rndIn }

/-- 20_memory.md R70: after `reset()` the bytes 0..79 hold FONT and every other byte is zero, as part of Reset and as the
first part of Load. The font's bytes are log 5; that Load begins with a reset of the whole core, and not of memory only,
is the spec's decision D8 (log 9). -/
def Obligations.MemoryResetWritesTheFont : Prop :=
  ∀ (now : Nat) (s : State),
    (∀ a, a < 80 → (resetOp now s).memRead a = Config.font.getD a 0#8) ∧
    (∀ a, 80 ≤ a → a ≤ 4095 → (resetOp now s).memRead a = 0#8) ∧
    (∀ bytes : List Byte, (load bytes now s).1 =
      if bytes.length ≤ 3584 then copyBytes 0x200 bytes (resetOp now s) else resetOp now s)

/-- 20_memory.md R71, R72: Load succeeds exactly for at most 3584 bytes, byte `i` of the ROM is then at `0x200 + i` and
all else is the reset state; otherwise the core is freshly reset. That Load resets the whole core is the spec's decision
D8, that it accepts no bytes D31. -/
def Obligations.LoadPlacesTheRom : Prop :=
  ∀ (bytes : List Byte) (now : Nat) (s : State),
    perform (.load bytes now) s = .next (load bytes now s).1 ∧
    ((load bytes now s).2 = true ↔ bytes.length ≤ 3584) ∧
    (bytes.length ≤ 3584 →
      (∀ i, i < bytes.length → (load bytes now s).1.memRead (0x200 + i) = bytes.getD i 0#8) ∧
      (∀ a, a < 4096 → a < 0x200 ∨ 0x200 + bytes.length ≤ a →
        (load bytes now s).1.memRead a = (resetOp now s).memRead a) ∧
      (load bytes now s).1 = { resetOp now s with mem := (load bytes now s).1.mem }) ∧
    (3584 < bytes.length → (load bytes now s).1 = resetOp now s)

/-! ### Encoding -/

/-- 30_encoding.md R100: the worked encodings, and the fields of 0xD125. -/
def Obligations.WorkedEncodingsDecode : Prop :=
  decode [0x6A#8, 0x02#8] = .ok (.ldImm 0xA#4 0x02#8, []) ∧
  decode [0x3A#8, 0x02#8] = .ok (.seImm 0xA#4 0x02#8, []) ∧
  decode [0x1A#8, 0x00#8] = .ok (.jp 0xA00#12, []) ∧
  decodeWord 0x6A02#16 = .ok (.ldImm 0xA#4 0x02#8) ∧
  decodeWord 0x3A02#16 = .ok (.seImm 0xA#4 0x02#8) ∧
  decodeWord 0x1A00#16 = .ok (.jp 0xA00#12) ∧
  decodeWord 0x8014#16 = .ok (.addReg 0x0#4 0x1#4) ∧
  decodeWord 0xD125#16 = .ok (.drw 0x1#4 0x2#4 0x5#4) ∧
  decodeWord 0xF30A#16 = .ok (.ldVxK 0x3#4) ∧
  decodeWord 0xE79E#16 = .ok (.skp 0x7#4) ∧
  decodeWord 0xFF55#16 = .ok (.ldMemVx 0xF#4) ∧
  decodeWord 0x2210#16 = .ok (.call 0x210#12) ∧
  decodeWord 0x00EE#16 = .ok .ret ∧
  groupOf 0xD125#16 = 0xD#4 ∧ fieldX 0xD125#16 = 0x1#4 ∧ fieldY 0xD125#16 = 0x2#4 ∧ fieldN 0xD125#16 = 0x5#4 ∧
  fieldNN 0xD125#16 = 0x25#8 ∧ fieldNNN 0xD125#16 = 0x125#12

/-- 30_encoding.md R90 to R93: the two bytes of every well-formed instruction, whatever follows them, decode to it, and
the decoder consumes exactly those two. -/
def Obligations.DecodeOfEncodeIsTheInstruction : Prop :=
  ∀ (i : Instr) (rest : List Byte), i.wellFormed = true →
    (encode i).length = 2 ∧ decode (encode i ++ rest) = .ok (i, rest)

/-- 30_encoding.md R90 to R94: two bytes that decode to an instruction are the bytes of that instruction, which is
well-formed; so no word has two meanings and no bit of a word is dropped. That every fixed bit is compared is the spec's
decision D14 (log 14), that SYS keeps its unused NNN the model's own choice (log 33). -/
def Obligations.EncodeOfDecodeIsTheBytes : Prop :=
  ∀ (bytes rest : List Byte) (i : Instr), decode bytes = .ok (i, rest) →
    i.wellFormed = true ∧ bytes = encode i ++ rest

/-- 30_encoding.md R93: a word selects the row whose `(w & mask) = match`; the rows are disjoint but for 00E0 and 00EE,
which lie inside 0NNN's pattern and take precedence over it. That a decoded word has every fixed bit of its row is the
spec's decision D14 (log 14). -/
def Obligations.WordSelectsItsOpcodeRow : Prop :=
  (∀ (w : Word) (i : Instr), decodeWord w = .ok i → w &&& i.maskMatch.1 = i.maskMatch.2) ∧
  (∀ (w : Word) (i : Instr), w &&& i.maskMatch.1 = i.maskMatch.2 →
    ∃ j, decodeWord w = .ok j ∧
      (j.maskMatch = i.maskMatch ∨
        (i.maskMatch = (0xF000#16, 0x0000#16) ∧ (w = 0x00E0#16 ∧ j = .cls ∨ w = 0x00EE#16 ∧ j = .ret))))

/-- 30_encoding.md R94, R96: the words that are no instruction are exactly the unrecognized space. That every fixed
nibble is compared is the spec's decision D14. -/
def Obligations.UnrecognizedSpaceIsExact : Prop :=
  ∀ w : Word, (∃ r, decodeWord w = .error r) ↔
    (groupOf w = 0x5#4 ∧ fieldN w ≠ 0x0#4) ∨
    (groupOf w = 0x8#4 ∧ fieldN w ∈ [0x8#4, 0x9#4, 0xA#4, 0xB#4, 0xC#4, 0xD#4, 0xF#4]) ∨
    (groupOf w = 0x9#4 ∧ fieldN w ≠ 0x0#4) ∨
    (groupOf w = 0xE#4 ∧ fieldNN w ∉ [0x9E#8, 0xA1#8]) ∨
    (groupOf w = 0xF#4 ∧
      fieldNN w ∉ [0x07#8, 0x0A#8, 0x15#8, 0x18#8, 0x1E#8, 0x29#8, 0x33#8, 0x55#8, 0x65#8])

/-! ### The Step operation -/

/-- 40_step_cycle.md R120 to R124, 00_scope.md R8: a step of the machine is the oldest pending operation, whichever it
is, or where none is pending a Step with a free clock reading and random byte; a Step is only its gate in either waiting
state, and in Normal the gate and then the instruction the two bytes at pc decode to (what bytes that decode to none do
is `UnrecognizedWordIsAFlaggedNoOp`). The gate's place is the spec's decisions D4 and D5 (log 18); the list and the free
arguments are logs 1, 2 and 4, the order of the two waits log 30. -/
def Obligations.StepRunsTheDecodedInstruction : Prop :=
  ∀ s : State,
    (∀ op ops, s.inputs = op :: ops → step s = perform op { s with inputs := ops }) ∧
    (s.inputs = [] →
      step s = stepOp (Config.clock s.tick) (Config.randomByte s.tick) { s with tick := s.tick + 1 }) ∧
    (∀ now rnd, perform (.step now rnd) s = stepOp now rnd s) ∧
    (s.engine ≠ .normal → ∀ now rnd, stepOp now rnd s = .next (frameGate now s)) ∧
    ∀ (i : Instr) (rest : List Byte), s.engine = .normal → decode s.fetchBytes = .ok (i, rest) →
      (∀ now rnd, stepOp now rnd s = exec i { frameGate now s with rndIn := rnd }) ∧
      (s.inputs = [] → step s = exec i
        { frameGate (Config.clock s.tick) { s with tick := s.tick + 1 } with rndIn := Config.randomByte s.tick }) ∧
      (∀ now rnd ops, s.inputs = .step now rnd :: ops →
        step s = exec i { frameGate now { s with inputs := ops } with rndIn := rnd })

/-- 20_memory.md R61, R63, R64: the fetched word is the big-endian pair at `pc` and `pc + 1`, each address masked to 12
bits on its own. The masking of the fetch is the spec's decision D16. -/
def Obligations.FetchIsBigEndianAndMasked : Prop :=
  ∀ s : State,
    s.fetchBytes = [s.mem.lookup (s.pc.toNat % 4096), s.mem.lookup ((s.pc.toNat + 1) % 4096)] ∧
    ∀ hi lo : Byte, (wordOfBytes hi lo).toNat = 256 * hi.toNat + lo.toNat

/-- 40_step_cycle.md R121: in AwaitingVblank a Step that is not due changes nothing; a due one decrements both timers,
clears the wait and moves the deadline, and executes nothing. That `now = deadline` counts as due is the spec's decision
D2 (log 2); that the key wait may be pending as well is log 30. -/
def Obligations.AwaitingVblankStepOnlyGates : Prop :=
  ∀ (now : Nat) (rnd : Byte) (s : State), s.engine = .awaitingVblank →
    (now < s.deadline → stepOp now rnd s = .next s) ∧
    (s.deadline ≤ now → ∃ t, stepOp now rnd s = .next t ∧
      t.dt.toNat = s.dt.toNat - 1 ∧ t.st.toNat = s.st.toNat - 1 ∧ t.vblankWait = false ∧ now < t.deadline ∧
      t = { s with dt := t.dt, st := t.st, vblankWait := t.vblankWait, deadline := t.deadline })

/-- 40_step_cycle.md R122: in AwaitingKey a Step that is not due changes nothing; a due one decrements both timers and
moves the deadline, and executes nothing; the wait goes on. The gate's place is the spec's decision D5 (log 18), that
`now = deadline` counts as due D2 (log 2). -/
def Obligations.AwaitingKeyStepOnlyGates : Prop :=
  ∀ (now : Nat) (rnd : Byte) (s : State) (r : Nib), s.engine = .awaitingKey r →
    (now < s.deadline → stepOp now rnd s = .next s) ∧
    (s.deadline ≤ now → ∃ t, stepOp now rnd s = .next t ∧ t.engine = .awaitingKey r ∧
      t.dt.toNat = s.dt.toNat - 1 ∧ t.st.toNat = s.st.toNat - 1 ∧ now < t.deadline ∧
      t = { s with dt := t.dt, st := t.st, deadline := t.deadline })

/-- 41_flow.md R145: bytes that are no instruction execute as a no-op that sets ERR bit 2; a Step in Normal that fetches
such bytes does just that, after its gate. The flag is the spec's decision D12 (log 13), the no-op D13 (log 14), the
gate's place D4 (log 18). -/
def Obligations.UnrecognizedWordIsAFlaggedNoOp : Prop :=
  (∀ (hi lo : Byte) (r : Reject) (s : State), decode [hi, lo] = .error r →
    ∃ t, execBytes [hi, lo] s = .next t ∧ t.err = s.err ||| 0b0100#4 ∧ t.pc = s.pc + 2#16 ∧
      Frame { err := true } s t) ∧
  ∀ (now : Nat) (rnd : Byte) (r : Reject) (s : State), s.engine = .normal → decode s.fetchBytes = .error r →
    ∃ t, stepOp now rnd s = .next t ∧ t.err = s.err ||| 0b0100#4 ∧ t.pc = s.pc + 2#16 ∧
      Frame { err := true } { frameGate now s with rndIn := rnd } t

/-! ### The frame clock and the keypad -/

/-- 47_frame_and_key_events.md R211: `FrameGate(now)`: no effect before the deadline; at or after it the deadline moves
by whole periods to the first value after `now`, each timer goes down by one unless it is zero, and the vblank wait
clears; nothing else changes. That `now = deadline` counts as reached is the spec's decision D2
(log 2). -/
def Obligations.FrameGateObservesTheBoundary : Prop :=
  ∀ (now : Nat) (s : State),
    (now < s.deadline → s.due now = false ∧ frameGate now s = s) ∧
    (s.deadline ≤ now → s.due now = true ∧
      (∃ k, 1 ≤ k ∧ (frameGate now s).deadline = s.deadline + k * Config.framePeriod) ∧
      now < (frameGate now s).deadline ∧ (frameGate now s).deadline ≤ now + Config.framePeriod ∧
      (frameGate now s).dt.toNat = s.dt.toNat - 1 ∧ (frameGate now s).st.toNat = s.st.toNat - 1 ∧
      (frameGate now s).vblankWait = false) ∧
    frameGate now s = { s with
      dt := (frameGate now s).dt, st := (frameGate now s).st, vblankWait := (frameGate now s).vblankWait,
      deadline := (frameGate now s).deadline }

/-- 47_frame_and_key_events.md R212: VblankCheck is the gate with its `due` result, and a second gate before the new
deadline does nothing. That VblankCheck is the gate is the spec's decision D6 (log 19), the comparison D2 (log 2). -/
def Obligations.SecondGateIsIdle : Prop :=
  ∀ (now : Nat) (s : State),
    vblankCheck now s = (frameGate now s, s.due now) ∧
    perform (.vblankCheck now) s = .next (frameGate now s) ∧
    ∀ later, later < (frameGate now s).deadline → frameGate later (frameGate now s) = frameGate now s

/-- 47_frame_and_key_events.md R215(b), (c), (d): after any gates, of which `n` are due, each timer that held `t` holds
`max(t − n, 0)`. -/
def Obligations.TimersCountDueGates : Prop :=
  ∀ (readings : List Nat) (s : State),
    (gates readings s).dt.toNat = s.dt.toNat - dueCount readings s ∧
    (gates readings s).st.toNat = s.st.toNat - dueCount readings s

/-- 70_reset_and_hazards.md R274(c): the `k`-th due gate after a Reset at `now0` needs `now >= now0 + k * FRAME_PERIOD`.
The first deadline is the spec's decision D3 (log 8), the comparison D2 (log 2). -/
def Obligations.DueGatesNeedTime : Prop :=
  ∀ (now0 now : Nat) (readings : List Nat) (s : State),
    (gates readings (resetOp now0 s)).due now = true →
      now0 + (dueCount readings (resetOp now0 s) + 1) * Config.framePeriod ≤ now

/-- 47_frame_and_key_events.md R216: Press sets the key and the most-recent-key latch and nothing else. The latch is the
spec's decision D21, a press during a wait D25. -/
def Obligations.PressRecordsTheKey : Prop :=
  ∀ (k : Nib) (s : State),
    perform (.press k) s = .next (press k s) ∧ (press k s).lastKey = k ∧
    (∀ j, (press k s).key j = if j = k then true else s.key j) ∧
    press k s = { s with keys := (press k s).keys, lastKey := k }

/-- 47_frame_and_key_events.md R217: Release clears the key, and in a key wait writes the most recently pressed code to
the recorded register, advances pc by 2 and ends the wait. Which release ends it and what it delivers is the spec's
decision D21. -/
def Obligations.ReleaseEndsTheKeyWait : Prop :=
  ∀ (k : Nib) (s : State),
    perform (.release k) s = .next (release k s) ∧
    (∀ j, (release k s).key j = if j = k then false else s.key j) ∧
    (s.keyWait = true →
      (∀ r, (release k s).getV r = if r = s.keyReg then s.lastKey.setWidth 8 else s.getV r) ∧
      release k s = { s with
        v := (release k s).v, pc := s.pc + 2#16, keys := (release k s).keys, keyWait := false }) ∧
    (s.keyWait = false → release k s = { s with keys := (release k s).keys })

/-! ### Control flow -/

/-- 41_flow.md R140: SYS is a no-op that sets ERR bit 3. The flag is the spec's decision D12, the no-op D13. -/
def Obligations.SysIsAFlaggedNoOp : Prop :=
  ∀ (nnn : Addr12) (s : State),
    (nnn ≠ 0x0E0#12 → nnn ≠ 0x0EE#12 → decodeWord (formatA 0x0#4 nnn) = .ok (.sys nnn)) ∧
    ∃ t, exec (.sys nnn) s = .next t ∧ t.err = s.err ||| 0b1000#4 ∧ t.pc = s.pc + 2#16 ∧ Frame { err := true } s t

/-- 41_flow.md R141: RET on a non-empty stack goes to the instruction after the call whose address it pops, the slots
keeping their values; on an empty stack it is a no-op that sets ERR bit 1. The slot's content is the spec's decision D9,
the clamp D11. -/
def Obligations.RetPopsOrFlagsUnderflow : Prop :=
  ∀ s : State, decodeWord 0x00EE#16 = .ok .ret ∧
    (∀ h : 0 < s.sp.val, ∃ t, exec .ret s = .next t ∧ t.sp.val = s.sp.val - 1 ∧
      t.pc = s.slot ⟨s.sp.val - 1, by omega⟩ + 2#16 ∧ (∀ j, t.slot j = s.slot j) ∧ Frame { stack := true } s t) ∧
    (s.sp.val = 0 → ∃ t, exec .ret s = .next t ∧ t.err = s.err ||| 0b0010#4 ∧ t.pc = s.pc + 2#16 ∧
      Frame { err := true } s t)

/-- 41_flow.md R142: JP sets pc to NNN and changes nothing else. -/
def Obligations.JpSetsPc : Prop :=
  ∀ (nnn : Addr12) (s : State), decodeWord (formatA 0x1#4 nnn) = .ok (.jp nnn) ∧
    ∃ t, exec (.jp nnn) s = .next t ∧ t.pc.toNat = nnn.toNat ∧ Frame { } s t

/-- 41_flow.md R143: CALL pushes its own address and jumps; on a full stack it pushes nothing, sets ERR bit 0 and still
jumps. The slot's content is the spec's decision D9, the overflow D10. -/
def Obligations.CallPushesOrFlagsOverflow : Prop :=
  ∀ (nnn : Addr12) (s : State), decodeWord (formatA 0x2#4 nnn) = .ok (.call nnn) ∧
    (s.sp.val < 16 → ∃ t, exec (.call nnn) s = .next t ∧ t.sp.val = s.sp.val + 1 ∧ t.pc.toNat = nnn.toNat ∧
      (∀ j : Fin 16, t.slot j = if j.val = s.sp.val then s.pc else s.slot j) ∧ Frame { stack := true } s t) ∧
    (s.sp.val = 16 → ∃ t, exec (.call nnn) s = .next t ∧ t.err = s.err ||| 0b0001#4 ∧ t.pc.toNat = nnn.toNat ∧
      Frame { err := true } s t)

/-- 41_flow.md R141, R143: a RET straight after a CALL that pushed resumes at the instruction after the call with the
stack pointer as before (the spec's decision D9). -/
def Obligations.RetReturnsBehindTheCall : Prop :=
  ∀ (nnn : Addr12) (s : State), s.sp.val < 16 →
    ∃ t u, exec (.call nnn) s = .next t ∧ exec .ret t = .next u ∧ u.pc = s.pc + 2#16 ∧ u.sp = s.sp ∧
      (∀ j : Fin 16, j.val ≠ s.sp.val → u.slot j = s.slot j) ∧ Frame { stack := true } s u

/-- 41_flow.md R144: JP V0 sets pc to V0 + NNN, not masked (the spec's decision D17). -/
def Obligations.JpV0AddsV0 : Prop :=
  ∀ (nnn : Addr12) (s : State), decodeWord (formatA 0xB#4 nnn) = .ok (.jpV0 nnn) ∧
    ∃ t, exec (.jpV0 nnn) s = .next t ∧ t.pc.toNat = (s.getV 0x0#4).toNat + nnn.toNat ∧ Frame { } s t

/-! ### Skips -/

/-- 42_skip.md R150, R151: SE and SNE with an immediate. -/
def Obligations.SkipComparesImmediate : Prop :=
  ∀ (x : Nib) (nn : Byte) (s : State),
    decodeWord (formatI 0x3#4 x nn) = .ok (.seImm x nn) ∧ decodeWord (formatI 0x4#4 x nn) = .ok (.sneImm x nn) ∧
    (∃ t, exec (.seImm x nn) s = .next t ∧ (s.getV x = nn → t.pc = s.pc + 4#16) ∧
      (s.getV x ≠ nn → t.pc = s.pc + 2#16) ∧ Frame { } s t) ∧
    (∃ t, exec (.sneImm x nn) s = .next t ∧ (s.getV x ≠ nn → t.pc = s.pc + 4#16) ∧
      (s.getV x = nn → t.pc = s.pc + 2#16) ∧ Frame { } s t)

/-- 42_skip.md R152, R153: SE and SNE with two registers; other low nibbles are unrecognized, which is the spec's
decision D14. -/
def Obligations.SkipComparesRegisters : Prop :=
  ∀ (x y : Nib) (s : State),
    (∀ n, decodeWord (formatR 0x5#4 x y n) = if n = 0x0#4 then .ok (.seReg x y) else .error .group5) ∧
    (∀ n, decodeWord (formatR 0x9#4 x y n) = if n = 0x0#4 then .ok (.sneReg x y) else .error .group9) ∧
    (∃ t, exec (.seReg x y) s = .next t ∧ (s.getV x = s.getV y → t.pc = s.pc + 4#16) ∧
      (s.getV x ≠ s.getV y → t.pc = s.pc + 2#16) ∧ Frame { } s t) ∧
    (∃ t, exec (.sneReg x y) s = .next t ∧ (s.getV x ≠ s.getV y → t.pc = s.pc + 4#16) ∧
      (s.getV x = s.getV y → t.pc = s.pc + 2#16) ∧ Frame { } s t)

/-- 42_skip.md R154, R155: SKP and SKNP test the key named by the low nibble of Vx. -/
def Obligations.SkipTestsTheKey : Prop :=
  ∀ (x k : Nib) (s : State), k.toNat = (s.getV x).toNat % 16 →
    decodeWord (formatF 0xE#4 x 0x9E#8) = .ok (.skp x) ∧ decodeWord (formatF 0xE#4 x 0xA1#8) = .ok (.sknp x) ∧
    (∃ t, exec (.skp x) s = .next t ∧ (s.key k = true → t.pc = s.pc + 4#16) ∧
      (s.key k = false → t.pc = s.pc + 2#16) ∧ Frame { } s t) ∧
    (∃ t, exec (.sknp x) s = .next t ∧ (s.key k = false → t.pc = s.pc + 4#16) ∧
      (s.key k = true → t.pc = s.pc + 2#16) ∧ Frame { } s t)

/-! ### Loads and arithmetic -/

/-- 43_load_alu.md R160: LD Vx, NN. -/
def Obligations.LoadImmediateSetsVx : Prop :=
  ∀ (x : Nib) (nn : Byte) (s : State), decodeWord (formatI 0x6#4 x nn) = .ok (.ldImm x nn) ∧
    ∃ t, exec (.ldImm x nn) s = .next t ∧ t.getV x = nn ∧ t.pc = s.pc + 2#16 ∧ Frame { regs := [x] } s t

/-- 43_load_alu.md R161: ADD Vx, NN wraps and leaves VF alone unless X is F. -/
def Obligations.AddImmediateWraps : Prop :=
  ∀ (x : Nib) (nn : Byte) (s : State), decodeWord (formatI 0x7#4 x nn) = .ok (.addImm x nn) ∧
    ∃ t, exec (.addImm x nn) s = .next t ∧ (t.getV x).toNat = ((s.getV x).toNat + nn.toNat) % 256 ∧
      t.pc = s.pc + 2#16 ∧ Frame { regs := [x] } s t

/-- 43_load_alu.md R162: LD Vx, Vy. -/
def Obligations.CopyRegisterSetsVx : Prop :=
  ∀ (x y : Nib) (s : State), decodeWord (formatR 0x8#4 x y 0x0#4) = .ok (.ldReg x y) ∧
    ∃ t, exec (.ldReg x y) s = .next t ∧ t.getV x = s.getV y ∧ t.pc = s.pc + 2#16 ∧ Frame { regs := [x] } s t

/-- 43_load_alu.md R163, R164, R165: OR, AND and XOR, VF forced to 0 afterward, so that with X = F the result is lost;
that order of the two writes is the spec's decision D18 (log 17). -/
def Obligations.BitwiseClearsVF : Prop :=
  ∀ (x y : Nib) (s : State),
    decodeWord (formatR 0x8#4 x y 0x1#4) = .ok (.orReg x y) ∧
    decodeWord (formatR 0x8#4 x y 0x2#4) = .ok (.andReg x y) ∧
    decodeWord (formatR 0x8#4 x y 0x3#4) = .ok (.xorReg x y) ∧
    (∃ t, exec (.orReg x y) s = .next t ∧ (x ≠ vf → t.getV x = s.getV x ||| s.getV y) ∧ t.getV vf = 0#8 ∧
      t.pc = s.pc + 2#16 ∧ Frame { regs := [x, vf] } s t) ∧
    (∃ t, exec (.andReg x y) s = .next t ∧ (x ≠ vf → t.getV x = s.getV x &&& s.getV y) ∧ t.getV vf = 0#8 ∧
      t.pc = s.pc + 2#16 ∧ Frame { regs := [x, vf] } s t) ∧
    (∃ t, exec (.xorReg x y) s = .next t ∧ (x ≠ vf → t.getV x = s.getV x ^^^ s.getV y) ∧ t.getV vf = 0#8 ∧
      t.pc = s.pc + 2#16 ∧ Frame { regs := [x, vf] } s t)

/-- 43_load_alu.md R166: ADD Vx, Vy: the sum modulo 256, then VF the carry, which with X = F is all that is left; that
order of the two writes is the spec's decision D18 (log 17). -/
def Obligations.AddSetsCarry : Prop :=
  ∀ (x y : Nib) (s : State), decodeWord (formatR 0x8#4 x y 0x4#4) = .ok (.addReg x y) ∧
    ∃ t, exec (.addReg x y) s = .next t ∧
      (x ≠ vf → (t.getV x).toNat = ((s.getV x).toNat + (s.getV y).toNat) % 256) ∧
      t.getV vf = (if 255 < (s.getV x).toNat + (s.getV y).toNat then 1#8 else 0#8) ∧
      t.pc = s.pc + 2#16 ∧ Frame { regs := [x, vf] } s t

/-- 43_load_alu.md R167, R169: SUB and SUBN: the difference modulo 256, then VF the no-borrow flag of the values before
the subtraction; that order of the two writes is the spec's decision D18 (log 17). -/
def Obligations.SubtractSetsNoBorrow : Prop :=
  ∀ (x y : Nib) (s : State),
    decodeWord (formatR 0x8#4 x y 0x5#4) = .ok (.subReg x y) ∧ decodeWord (formatR 0x8#4 x y 0x7#4) = .ok (.subn x y) ∧
    (∃ t, exec (.subReg x y) s = .next t ∧
      (x ≠ vf → (t.getV x).toNat = ((s.getV x).toNat + 256 - (s.getV y).toNat) % 256) ∧
      t.getV vf = (if (s.getV y).toNat ≤ (s.getV x).toNat then 1#8 else 0#8) ∧
      t.pc = s.pc + 2#16 ∧ Frame { regs := [x, vf] } s t) ∧
    (∃ t, exec (.subn x y) s = .next t ∧
      (x ≠ vf → (t.getV x).toNat = ((s.getV y).toNat + 256 - (s.getV x).toNat) % 256) ∧
      t.getV vf = (if (s.getV x).toNat ≤ (s.getV y).toNat then 1#8 else 0#8) ∧
      t.pc = s.pc + 2#16 ∧ Frame { regs := [x, vf] } s t)

/-- 43_load_alu.md R168, R170: SHR and SHL shift the copied Vy, the bit shifted out going to VF; with X = F the shift acts
on that bit, which is the spec's decision D18. -/
def Obligations.ShiftsCopyVyFirst : Prop :=
  ∀ (x y : Nib) (s : State),
    decodeWord (formatR 0x8#4 x y 0x6#4) = .ok (.shr x y) ∧ decodeWord (formatR 0x8#4 x y 0xE#4) = .ok (.shl x y) ∧
    (∃ t, exec (.shr x y) s = .next t ∧
      (x ≠ vf → (t.getV x).toNat = (s.getV y).toNat / 2 ∧ (t.getV vf).toNat = (s.getV y).toNat % 2) ∧
      (x = vf → t.getV vf = 0#8) ∧ t.pc = s.pc + 2#16 ∧ Frame { regs := [x, vf] } s t) ∧
    (∃ t, exec (.shl x y) s = .next t ∧
      (x ≠ vf → (t.getV x).toNat = 2 * (s.getV y).toNat % 256 ∧ (t.getV vf).toNat = (s.getV y).toNat / 128) ∧
      (x = vf → (t.getV vf).toNat = 2 * ((s.getV y).toNat / 128)) ∧
      t.pc = s.pc + 2#16 ∧ Frame { regs := [x, vf] } s t)

/-- 43_load_alu.md R171: RND writes the random byte of its Step masked by NN, whatever that byte is; a free input of the
Step is the spec's decision D20 (log 4). -/
def Obligations.RandomIsMaskedByNN : Prop :=
  ∀ (x : Nib) (nn : Byte) (s : State), decodeWord (formatI 0xC#4 x nn) = .ok (.rnd x nn) ∧
    (∃ t, exec (.rnd x nn) s = .next t ∧ t.getV x = s.rndIn &&& nn ∧ t.pc = s.pc + 2#16 ∧
      Frame { regs := [x] } s t) ∧
    (∀ now rnd rest, s.engine = .normal → decode s.fetchBytes = .ok (.rnd x nn, rest) →
      ∃ t, stepOp now rnd s = .next t ∧ t.getV x = rnd &&& nn)

/-! ### The address register and memory -/

/-- 44_index_memory.md R180: LD I, NNN. -/
def Obligations.LoadISetsI : Prop :=
  ∀ (nnn : Addr12) (s : State), decodeWord (formatA 0xA#4 nnn) = .ok (.ldI nnn) ∧
    ∃ t, exec (.ldI nnn) s = .next t ∧ t.i.toNat = nnn.toNat ∧ t.pc = s.pc + 2#16 ∧ Frame { index := true } s t

/-- 44_index_memory.md R181: ADD I, Vx is masked to 12 bits and leaves VF alone. -/
def Obligations.AddIIsMasked : Prop :=
  ∀ (x : Nib) (s : State), decodeWord (formatF 0xF#4 x 0x1E#8) = .ok (.addI x) ∧
    ∃ t, exec (.addI x) s = .next t ∧ t.i.toNat = (s.i.toNat + (s.getV x).toNat) % 4096 ∧ t.pc = s.pc + 2#16 ∧
      Frame { index := true } s t

/-- 44_index_memory.md R182: LD F, Vx points I at the glyph of the low nibble of Vx. -/
def Obligations.LoadFPointsAtTheGlyph : Prop :=
  ∀ (x : Nib) (s : State), decodeWord (formatF 0xF#4 x 0x29#8) = .ok (.ldF x) ∧
    ∃ t, exec (.ldF x) s = .next t ∧ t.i.toNat = (s.getV x).toNat % 16 * 5 ∧ t.pc = s.pc + 2#16 ∧
      Frame { index := true } s t

/-- 44_index_memory.md R183: LD B, Vx stores hundreds, tens and ones at I, I + 1 and I + 2, each address masked, and
changes no other byte. The premise is the canonical form of memory, which `StepKeepsTheInvariant` keeps. -/
def Obligations.LoadBStoresTheDigits : Prop :=
  ∀ (x : Nib) (s : State), s.mem.wf = true → decodeWord (formatF 0xF#4 x 0x33#8) = .ok (.ldB x) ∧
    ∃ t, exec (.ldB x) s = .next t ∧
      (t.memRead (s.effAddr 0)).toNat = (s.getV x).toNat / 100 ∧
      (t.memRead (s.effAddr 1)).toNat = (s.getV x).toNat / 10 % 10 ∧
      (t.memRead (s.effAddr 2)).toNat = (s.getV x).toNat % 10 ∧
      t.pc = s.pc + 2#16 ∧ Frame { mem := [s.effAddr 0, s.effAddr 1, s.effAddr 2] } s t

/-- 44_index_memory.md R184: LD [I], Vx stores V0 to Vx at I onwards and changes no other byte. That I is unchanged is
the spec's decision D15 (LOAD_STORE_ADVANCES_I is false, log 15); what it becomes under either setting is stated too. -/
def Obligations.StoreRegistersToMemory : Prop :=
  ∀ (x : Nib) (s : State), s.mem.wf = true → decodeWord (formatF 0xF#4 x 0x55#8) = .ok (.ldMemVx x) ∧
    (∃ t, exec (.ldMemVx x) s = .next t ∧ t.i = s.i ∧
      (∀ r : Nib, r.toNat ≤ x.toNat → t.memRead (s.effAddr r.toNat) = s.getV r) ∧
      t.pc = s.pc + 2#16 ∧ Frame { mem := (List.range (x.toNat + 1)).map s.effAddr } s t) ∧
    exec (.ldMemVx x) s = .next (storeTransfer Config.loadStoreAdvancesI x s) ∧
    ∀ advances, (storeTransfer advances x s).i.toNat =
      if advances then (s.i.toNat + x.toNat + 1) % 4096 else s.i.toNat

/-- 44_index_memory.md R185: LD Vx, [I] loads V0 to Vx from I onwards; the registers above Vx and memory are unchanged.
That I is unchanged is the spec's decision D15 (log 15); what it becomes under either setting is stated too. -/
def Obligations.LoadRegistersFromMemory : Prop :=
  ∀ (x : Nib) (s : State), decodeWord (formatF 0xF#4 x 0x65#8) = .ok (.ldVxMem x) ∧
    (∃ t, exec (.ldVxMem x) s = .next t ∧ t.i = s.i ∧
      (∀ r : Nib, t.getV r = if r.toNat ≤ x.toNat then s.memRead (s.i.toNat + r.toNat) else s.getV r) ∧
      t.pc = s.pc + 2#16 ∧ Frame { regs := (List.range (x.toNat + 1)).map (BitVec.ofNat 4) } s t) ∧
    exec (.ldVxMem x) s = .next (loadTransfer Config.loadStoreAdvancesI x s) ∧
    ∀ advances, (loadTransfer advances x s).i.toNat =
      if advances then (s.i.toNat + x.toNat + 1) % 4096 else s.i.toNat

/-- 20_memory.md R76: a byte that FX55 stores over the instruction stream is what the next fetch reads. -/
def Obligations.StoredBytesAreFetchedAtOnce : Prop :=
  ∀ (x r : Nib) (s : State), s.mem.wf = true → r.toNat ≤ x.toNat →
    ∃ t, exec (.ldMemVx x) s = .next t ∧
      (s.effAddr r.toNat = maskAddr t.pc.toNat → t.fetchBytes.head? = some (s.getV r)) ∧
      (s.effAddr r.toNat = maskAddr (t.pc.toNat + 1) → t.fetchBytes.getLast? = some (s.getV r))

/-! ### The display -/

/-- 45_display.md R190: CLS clears every cell, and touches nothing else. -/
def Obligations.ClsClearsEveryCell : Prop :=
  ∀ s : State, decodeWord 0x00E0#16 = .ok .cls ∧
    ∃ t, exec .cls s = .next t ∧ (∀ x y, t.disp.cell x y = false) ∧ t.pc = s.pc + 2#16 ∧ Frame { disp := true } s t

/-- 45_display.md R191: DRW toggles exactly the visible cells a set sprite bit lies on, sets VF to 1 if one of them was 1
and to 0 otherwise, and arms the vblank wait. The bit order is the spec's general knowledge (log 6), the reading of the
position before VF is cleared its decision D19. -/
def Obligations.DrawTogglesSpriteCells : Prop :=
  ∀ (x y n : Nib) (s : State), decodeWord (formatR 0xD#4 x y n) = .ok (.drw x y n) ∧
    ∃ t, exec (.drw x y n) s = .next t ∧
      (∀ cx cy, SpriteAt s x y n cx cy → t.disp.cell cx cy = !s.disp.cell cx cy) ∧
      (∀ cx cy, ¬ SpriteAt s x y n cx cy → t.disp.cell cx cy = s.disp.cell cx cy) ∧
      ((∃ cx cy, SpriteAt s x y n cx cy ∧ s.disp.cell cx cy = true) → t.getV vf = 1#8) ∧
      ((¬ ∃ cx cy, SpriteAt s x y n cx cy ∧ s.disp.cell cx cy = true) → t.getV vf = 0#8) ∧
      t.vblankWait = true ∧ t.pc = s.pc + 2#16 ∧
      Frame { regs := [vf], vblankLatch := true, disp := true } s t

/-- 45_display.md R192: the same DRW twice restores every cell, VF being 1 after the first exactly if some visible set
bit's cell was 1 before, and after the second exactly if some was 0 before the first. The second draw starts from any
state that has the cells the first left and the first's Vx, Vy, I and memory; if VF is no coordinate register that is so
of the state the first leaves, and of it after any gate, such as the one that ends the wait. The bit order is the spec's
general knowledge (log 6); `exec` does not look at the latches (log 29). -/
def Obligations.DrawTwiceRestoresTheDisplay : Prop :=
  ∀ (x y n : Nib) (s : State), ∃ t, exec (.drw x y n) s = .next t ∧
    (t.getV vf = 1#8 ↔ ∃ cx cy, SpriteAt s x y n cx cy ∧ s.disp.cell cx cy = true) ∧
    (x ≠ vf → y ≠ vf → SameDraw x y s t ∧ ∀ now, SameDraw x y s (frameGate now t)) ∧
    ∀ t' : State, SameDraw x y s t' → (∀ cx cy, t'.disp.cell cx cy = t.disp.cell cx cy) →
      ∃ u, exec (.drw x y n) t' = .next u ∧
        (∀ cx cy, u.disp.cell cx cy = s.disp.cell cx cy) ∧
        (u.getV vf = 1#8 ↔ ∃ cx cy, SpriteAt s x y n cx cy ∧ s.disp.cell cx cy = false)

/-- 10_state.md R32, 45_display.md R193: the presenter's buffer has 2048 bytes, 0 or 1, cell (x, y) at `y * 64 + x`. -/
def Obligations.FrameBufferIsRowMajor : Prop :=
  ∀ s : State, s.frameBuffer.length = 2048 ∧
    ∀ x y, x < 64 → y < 32 → s.frameBuffer[y * 64 + x]? = some (if s.disp.cell x y then 1#8 else 0#8)

/-! ### Timers and the key wait -/

/-- 46_timer_key_instr.md R200, R202, R203: LD Vx, DT; LD DT, Vx; LD ST, Vx. In a Step whose gate is due the timers
go down before the instruction, which is the spec's decision D24 (log 18); that `now = deadline` counts as due is D2
(log 2). -/
def Obligations.TimersMoveToAndFromVx : Prop :=
  ∀ (x : Nib) (s : State),
    decodeWord (formatF 0xF#4 x 0x07#8) = .ok (.ldVxDt x) ∧
    decodeWord (formatF 0xF#4 x 0x15#8) = .ok (.ldDtVx x) ∧ decodeWord (formatF 0xF#4 x 0x18#8) = .ok (.ldStVx x) ∧
    (∃ t, exec (.ldVxDt x) s = .next t ∧ t.getV x = s.dt ∧ t.pc = s.pc + 2#16 ∧ Frame { regs := [x] } s t) ∧
    (∃ t, exec (.ldDtVx x) s = .next t ∧ t.dt = s.getV x ∧ t.pc = s.pc + 2#16 ∧ Frame { dt := true } s t) ∧
    (∃ t, exec (.ldStVx x) s = .next t ∧ t.st = s.getV x ∧ t.pc = s.pc + 2#16 ∧ Frame { st := true } s t) ∧
    (∀ now rnd rest, s.engine = .normal → s.deadline ≤ now →
      (decode s.fetchBytes = .ok (.ldVxDt x, rest) →
        ∃ t, stepOp now rnd s = .next t ∧ (t.getV x).toNat = s.dt.toNat - 1 ∧ t.dt.toNat = s.dt.toNat - 1) ∧
      (decode s.fetchBytes = .ok (.ldDtVx x, rest) →
        ∃ t, stepOp now rnd s = .next t ∧ t.dt = s.getV x ∧ t.st.toNat = s.st.toNat - 1) ∧
      (decode s.fetchBytes = .ok (.ldStVx x, rest) →
        ∃ t, stepOp now rnd s = .next t ∧ t.st = s.getV x ∧ t.dt.toNat = s.dt.toNat - 1))

/-- 46_timer_key_instr.md R201: LD Vx, K enters the key wait with pc and V[X] unchanged, whatever the keys; no Step
executes anything while it lasts and no Press ends it; a Release writes `last_key`, advances pc by 2 and clears it.
What the release delivers is the spec's decision D21, the timers' running on in the wait D5. -/
def Obligations.WaitForKeyParksTheCore : Prop :=
  ∀ (x : Nib) (s : State), decodeWord (formatF 0xF#4 x 0x0A#8) = .ok (.ldVxK x) ∧
    ∃ t, exec (.ldVxK x) s = .next t ∧ t.keyWait = true ∧ t.keyReg = x ∧ t.pc = s.pc ∧
      Frame { keyLatch := true } s t ∧
      (s.vblankWait = false → t.engine = .awaitingKey x ∧ ∀ now rnd, stepOp now rnd t = .next (frameGate now t)) ∧
      (∀ k, (press k t).keyWait = true ∧ (press k t).pc = s.pc) ∧
      (∀ k, (release k t).keyWait = false ∧ (release k t).pc = s.pc + 2#16 ∧
        (release k t).getV x = t.lastKey.setWidth 8)

/-! ### The whole machine -/

/-- 60_exceptions.md R230, R232, 30_encoding.md R95: no word and no event stops the machine: every step of every state
answers a next state, and so does every instruction and every operation. That a step is one operation is log 1. -/
def Obligations.NothingStopsTheMachine : Prop :=
  (∀ (i : Instr) (s : State), ∃ t, exec i s = .next t) ∧
  (∀ (op : Op) (s : State), ∃ t, perform op s = .next t) ∧
  ∀ s : State, ∃ t, step s = .next t

/-- Every step keeps the invariant: memory's canonical form (the model's own, log 34), `I <= 0x0FFF` (10_state.md R22),
at most one wait (10_state.md R35). -/
def Obligations.StepKeepsTheInvariant : Prop :=
  ∀ s t : State, s.Inv → step s = .next t → t.Inv

/-- The reset state, and the result of every Reset, meets the invariant: memory's canonical form (the model's own, log 34),
`I <= 0x0FFF` (10_state.md R22), at most one wait (10_state.md R35). That I is reset to 0 is the spec's decision D7
(log 7). -/
def Obligations.ResetMeetsTheInvariant : Prop :=
  State.reset.Inv ∧ ∀ (now : Nat) (s : State), (resetOp now s).Inv

/-- 10_state.md R43, its "written by" column: which instructions write which part of the state, pc apart
(`PcAfterEachInstruction`). The effect of FX55 and FX65 on I is the spec's decision D15 (log 15), the flags of ERR D12
(log 13). -/
def Obligations.OnlyTheListedInstructionsWrite : Prop :=
  ∀ (i : Instr) (s t : State), exec i s = .next t →
    (t.v ≠ s.v →
      (∃ x nn, i = .ldImm x nn ∨ i = .addImm x nn ∨ i = .rnd x nn) ∨
      (∃ x y, i = .ldReg x y ∨ i = .orReg x y ∨ i = .andReg x y ∨ i = .xorReg x y ∨ i = .addReg x y ∨
        i = .subReg x y ∨ i = .shr x y ∨ i = .subn x y ∨ i = .shl x y ∨ ∃ n, i = .drw x y n) ∨
      ∃ x, i = .ldVxDt x ∨ i = .ldVxMem x) ∧
    (t.i ≠ s.i → (∃ nnn, i = .ldI nnn) ∨ ∃ x, i = .addI x ∨ i = .ldF x) ∧
    (t.stack ≠ s.stack → ∃ nnn, i = .call nnn) ∧
    (t.sp ≠ s.sp → i = .ret ∨ ∃ nnn, i = .call nnn) ∧
    (t.dt ≠ s.dt → ∃ x, i = .ldDtVx x) ∧
    (t.st ≠ s.st → ∃ x, i = .ldStVx x) ∧
    t.keys = s.keys ∧ t.lastKey = s.lastKey ∧ t.deadline = s.deadline ∧
    (t.mem ≠ s.mem → ∃ x, i = .ldB x ∨ i = .ldMemVx x) ∧
    (t.disp ≠ s.disp → i = .cls ∨ ∃ x y n, i = .drw x y n) ∧
    (t.keyWait ≠ s.keyWait ∨ t.keyReg ≠ s.keyReg → ∃ x, i = .ldVxK x) ∧
    (t.vblankWait ≠ s.vblankWait → ∃ x y n, i = .drw x y n) ∧
    (t.err ≠ s.err → i = .ret ∨ ∃ nnn, i = .call nnn ∨ i = .sys nnn)

/-- 10_state.md R21, 70_reset_and_hazards.md R269: VF changes only by the nine flag-writing instructions, or where it is
the destination of 6XNN, 7XNN, 8XY0, CXNN, FX07 or FX65. -/
def Obligations.OnlyFlagWritersChangeVF : Prop :=
  ∀ (i : Instr) (s t : State), exec i s = .next t → t.getV vf ≠ s.getV vf →
    (∃ x y, i = .orReg x y ∨ i = .andReg x y ∨ i = .xorReg x y ∨ i = .addReg x y ∨ i = .subReg x y ∨
      i = .shr x y ∨ i = .subn x y ∨ i = .shl x y ∨ ∃ n, i = .drw x y n) ∨
    (∃ nn, i = .ldImm vf nn ∨ i = .addImm vf nn ∨ i = .rnd vf nn) ∨
    (∃ y, i = .ldReg vf y) ∨ i = .ldVxDt vf ∨ i = .ldVxMem vf

/-- 10_state.md R24, 40_step_cycle.md R127: how each instruction changes pc. The return address is the spec's decision D9,
the empty stack D11, the unmasked sum D17. -/
def Obligations.PcAfterEachInstruction : Prop :=
  ∀ (i : Instr) (s t : State), exec i s = .next t →
    (∃ nnn, (i = .jp nnn ∨ i = .call nnn) ∧ t.pc.toNat = nnn.toNat) ∨
    (∃ nnn, i = .jpV0 nnn ∧ t.pc.toNat = (s.getV 0x0#4).toNat + nnn.toNat) ∨
    (i = .ret ∧ ∃ h : 0 < s.sp.val, t.pc = s.slot ⟨s.sp.val - 1, by omega⟩ + 2#16) ∨
    ((∃ x, i = .ldVxK x) ∧ t.pc = s.pc) ∨
    ((∃ x, (∃ nn, i = .seImm x nn ∨ i = .sneImm x nn) ∨ (∃ y, i = .seReg x y ∨ i = .sneReg x y) ∨
      i = .skp x ∨ i = .sknp x) ∧ t.pc = s.pc + 4#16) ∨
    ((∀ nnn, i ≠ .jp nnn ∧ i ≠ .call nnn ∧ i ≠ .jpV0 nnn) ∧ (∀ x, i ≠ .ldVxK x) ∧ (i = .ret → s.sp.val = 0) ∧
      t.pc = s.pc + 2#16)

/-- 60_exceptions.md R231, 10_state.md R37: a flag of ERR once set stays set at every step that is no Reset and no Load.
ERR is the spec's decision D12, its lifetime D29. -/
def Obligations.ErrorFlagsAreSticky : Prop :=
  ∀ s t : State, step s = .next t →
    (∀ now ops, s.inputs ≠ .reset now :: ops) → (∀ bytes now ops, s.inputs ≠ .load bytes now :: ops) →
    ∀ b : Nat, s.err.getLsbD b = true → t.err.getLsbD b = true

/-- 10_state.md R37, 40_step_cycle.md R131: no instruction reads ERR and no flag changes what a step does: two states that
differ only in ERR step to states that differ at most in ERR. ERR is the spec's decision D12. -/
def Obligations.ErrorFlagsAreNeverRead : Prop :=
  ∀ (s t : State) (e : BitVec 4), step s = .next t →
    ∃ e', step { s with err := e } = .next { t with err := e' }

/-- 47_frame_and_key_events.md R214: apart from the deadline itself, a Step depends on `now` and `deadline` only through
the bit `now >= deadline`. -/
def Obligations.StepDependsOnTimeOnlyThroughDue : Prop :=
  ∀ (s t : State) (now now' deadline' : Nat) (rnd : Byte),
    decide (s.deadline ≤ now) = decide (deadline' ≤ now') → stepOp now rnd s = .next t →
      ∃ d, stepOp now' rnd { s with deadline := deadline' } = .next { t with deadline := d }

/-- 70_reset_and_hazards.md R264, 40_step_cycle.md R131: a program at a jump to itself stays there: a Step changes only
what the gate changes. That such a state counts as the end of a run is the model's choice (log 35), the gate's place the
spec's decision D4 (log 18). -/
def Obligations.JumpToSelfIsForever : Prop :=
  ∀ (s : State) (now : Nat) (rnd : Byte), s.Finished → s.engine = .normal →
    ∃ t, stepOp now rnd s = .next t ∧ t.Finished ∧ t.engine = .normal ∧
      t = { frameGate now s with rndIn := rnd }

/-- 47_frame_and_key_events.md R213, 70_reset_and_hazards.md R266, R274(d): after a Step that draws, no Step changes
anything until a gate is due, and the due one executes nothing but returns the core to Normal. That `later = t.deadline`
counts as due is the spec's decision D2 (log 2), the gate's place in the drawing Step D4 (log 18). -/
def Obligations.DrawWaitsForTheFrame : Prop :=
  ∀ (s : State) (now : Nat) (rnd : Byte) (x y n : Nib) (rest : List Byte), s.engine = .normal →
    decode s.fetchBytes = .ok (.drw x y n, rest) →
    ∃ t, stepOp now rnd s = .next t ∧ t.engine = .awaitingVblank ∧
      (∀ later byte, later < t.deadline → stepOp later byte t = .next t) ∧
      (∀ later byte, t.deadline ≤ later → ∃ u, stepOp later byte t = .next u ∧
        u.vblankWait = false ∧ u.keyWait = false ∧ u.pc = t.pc ∧ Frame { dt := true, st := true, vblankLatch := true }
          { t with deadline := u.deadline } u)
end

