-- ==== Sys2Proof/Laws/State.lean ====
section
/-! SUPPORT. What each update of the state does to each field, true by rfl, and reading after writing a register or a
key. No later proof unfolds a record update. -/

namespace Sys2Proof.Machine

open Sys2Proof

/-! ### State.setV -/

@[simp] theorem State.setV_v (s : State) (x : Nib) (b : Byte) :
    (s.setV x b).v = s.v.set x.toNat b x.isLt := rfl
@[simp] theorem State.setV_i (s : State) (x : Nib) (b : Byte) :
    (s.setV x b).i = s.i := rfl
@[simp] theorem State.setV_pc (s : State) (x : Nib) (b : Byte) :
    (s.setV x b).pc = s.pc := rfl
@[simp] theorem State.setV_stack (s : State) (x : Nib) (b : Byte) :
    (s.setV x b).stack = s.stack := rfl
@[simp] theorem State.setV_sp (s : State) (x : Nib) (b : Byte) :
    (s.setV x b).sp = s.sp := rfl
@[simp] theorem State.setV_dt (s : State) (x : Nib) (b : Byte) :
    (s.setV x b).dt = s.dt := rfl
@[simp] theorem State.setV_st (s : State) (x : Nib) (b : Byte) :
    (s.setV x b).st = s.st := rfl
@[simp] theorem State.setV_keys (s : State) (x : Nib) (b : Byte) :
    (s.setV x b).keys = s.keys := rfl
@[simp] theorem State.setV_lastKey (s : State) (x : Nib) (b : Byte) :
    (s.setV x b).lastKey = s.lastKey := rfl
@[simp] theorem State.setV_mem (s : State) (x : Nib) (b : Byte) :
    (s.setV x b).mem = s.mem := rfl
@[simp] theorem State.setV_disp (s : State) (x : Nib) (b : Byte) :
    (s.setV x b).disp = s.disp := rfl
@[simp] theorem State.setV_keyWait (s : State) (x : Nib) (b : Byte) :
    (s.setV x b).keyWait = s.keyWait := rfl
@[simp] theorem State.setV_keyReg (s : State) (x : Nib) (b : Byte) :
    (s.setV x b).keyReg = s.keyReg := rfl
@[simp] theorem State.setV_vblankWait (s : State) (x : Nib) (b : Byte) :
    (s.setV x b).vblankWait = s.vblankWait := rfl
@[simp] theorem State.setV_deadline (s : State) (x : Nib) (b : Byte) :
    (s.setV x b).deadline = s.deadline := rfl
@[simp] theorem State.setV_err (s : State) (x : Nib) (b : Byte) :
    (s.setV x b).err = s.err := rfl
@[simp] theorem State.setV_inputs (s : State) (x : Nib) (b : Byte) :
    (s.setV x b).inputs = s.inputs := rfl
@[simp] theorem State.setV_tick (s : State) (x : Nib) (b : Byte) :
    (s.setV x b).tick = s.tick := rfl
@[simp] theorem State.setV_rndIn (s : State) (x : Nib) (b : Byte) :
    (s.setV x b).rndIn = s.rndIn := rfl

/-! ### State.setI -/

@[simp] theorem State.setI_v (s : State) (a : Word) :
    (s.setI a).v = s.v := rfl
@[simp] theorem State.setI_i (s : State) (a : Word) :
    (s.setI a).i = a := rfl
@[simp] theorem State.setI_pc (s : State) (a : Word) :
    (s.setI a).pc = s.pc := rfl
@[simp] theorem State.setI_stack (s : State) (a : Word) :
    (s.setI a).stack = s.stack := rfl
@[simp] theorem State.setI_sp (s : State) (a : Word) :
    (s.setI a).sp = s.sp := rfl
@[simp] theorem State.setI_dt (s : State) (a : Word) :
    (s.setI a).dt = s.dt := rfl
@[simp] theorem State.setI_st (s : State) (a : Word) :
    (s.setI a).st = s.st := rfl
@[simp] theorem State.setI_keys (s : State) (a : Word) :
    (s.setI a).keys = s.keys := rfl
@[simp] theorem State.setI_lastKey (s : State) (a : Word) :
    (s.setI a).lastKey = s.lastKey := rfl
@[simp] theorem State.setI_mem (s : State) (a : Word) :
    (s.setI a).mem = s.mem := rfl
@[simp] theorem State.setI_disp (s : State) (a : Word) :
    (s.setI a).disp = s.disp := rfl
@[simp] theorem State.setI_keyWait (s : State) (a : Word) :
    (s.setI a).keyWait = s.keyWait := rfl
@[simp] theorem State.setI_keyReg (s : State) (a : Word) :
    (s.setI a).keyReg = s.keyReg := rfl
@[simp] theorem State.setI_vblankWait (s : State) (a : Word) :
    (s.setI a).vblankWait = s.vblankWait := rfl
@[simp] theorem State.setI_deadline (s : State) (a : Word) :
    (s.setI a).deadline = s.deadline := rfl
@[simp] theorem State.setI_err (s : State) (a : Word) :
    (s.setI a).err = s.err := rfl
@[simp] theorem State.setI_inputs (s : State) (a : Word) :
    (s.setI a).inputs = s.inputs := rfl
@[simp] theorem State.setI_tick (s : State) (a : Word) :
    (s.setI a).tick = s.tick := rfl
@[simp] theorem State.setI_rndIn (s : State) (a : Word) :
    (s.setI a).rndIn = s.rndIn := rfl

/-! ### State.setPc -/

@[simp] theorem State.setPc_v (s : State) (a : Word) :
    (s.setPc a).v = s.v := rfl
@[simp] theorem State.setPc_i (s : State) (a : Word) :
    (s.setPc a).i = s.i := rfl
@[simp] theorem State.setPc_pc (s : State) (a : Word) :
    (s.setPc a).pc = a := rfl
@[simp] theorem State.setPc_stack (s : State) (a : Word) :
    (s.setPc a).stack = s.stack := rfl
@[simp] theorem State.setPc_sp (s : State) (a : Word) :
    (s.setPc a).sp = s.sp := rfl
@[simp] theorem State.setPc_dt (s : State) (a : Word) :
    (s.setPc a).dt = s.dt := rfl
@[simp] theorem State.setPc_st (s : State) (a : Word) :
    (s.setPc a).st = s.st := rfl
@[simp] theorem State.setPc_keys (s : State) (a : Word) :
    (s.setPc a).keys = s.keys := rfl
@[simp] theorem State.setPc_lastKey (s : State) (a : Word) :
    (s.setPc a).lastKey = s.lastKey := rfl
@[simp] theorem State.setPc_mem (s : State) (a : Word) :
    (s.setPc a).mem = s.mem := rfl
@[simp] theorem State.setPc_disp (s : State) (a : Word) :
    (s.setPc a).disp = s.disp := rfl
@[simp] theorem State.setPc_keyWait (s : State) (a : Word) :
    (s.setPc a).keyWait = s.keyWait := rfl
@[simp] theorem State.setPc_keyReg (s : State) (a : Word) :
    (s.setPc a).keyReg = s.keyReg := rfl
@[simp] theorem State.setPc_vblankWait (s : State) (a : Word) :
    (s.setPc a).vblankWait = s.vblankWait := rfl
@[simp] theorem State.setPc_deadline (s : State) (a : Word) :
    (s.setPc a).deadline = s.deadline := rfl
@[simp] theorem State.setPc_err (s : State) (a : Word) :
    (s.setPc a).err = s.err := rfl
@[simp] theorem State.setPc_inputs (s : State) (a : Word) :
    (s.setPc a).inputs = s.inputs := rfl
@[simp] theorem State.setPc_tick (s : State) (a : Word) :
    (s.setPc a).tick = s.tick := rfl
@[simp] theorem State.setPc_rndIn (s : State) (a : Word) :
    (s.setPc a).rndIn = s.rndIn := rfl

/-! ### State.advance -/

@[simp] theorem State.advance_v (s : State) :
    (s.advance).v = s.v := rfl
@[simp] theorem State.advance_i (s : State) :
    (s.advance).i = s.i := rfl
@[simp] theorem State.advance_pc (s : State) :
    (s.advance).pc = s.pc + 2#16 := rfl
@[simp] theorem State.advance_stack (s : State) :
    (s.advance).stack = s.stack := rfl
@[simp] theorem State.advance_sp (s : State) :
    (s.advance).sp = s.sp := rfl
@[simp] theorem State.advance_dt (s : State) :
    (s.advance).dt = s.dt := rfl
@[simp] theorem State.advance_st (s : State) :
    (s.advance).st = s.st := rfl
@[simp] theorem State.advance_keys (s : State) :
    (s.advance).keys = s.keys := rfl
@[simp] theorem State.advance_lastKey (s : State) :
    (s.advance).lastKey = s.lastKey := rfl
@[simp] theorem State.advance_mem (s : State) :
    (s.advance).mem = s.mem := rfl
@[simp] theorem State.advance_disp (s : State) :
    (s.advance).disp = s.disp := rfl
@[simp] theorem State.advance_keyWait (s : State) :
    (s.advance).keyWait = s.keyWait := rfl
@[simp] theorem State.advance_keyReg (s : State) :
    (s.advance).keyReg = s.keyReg := rfl
@[simp] theorem State.advance_vblankWait (s : State) :
    (s.advance).vblankWait = s.vblankWait := rfl
@[simp] theorem State.advance_deadline (s : State) :
    (s.advance).deadline = s.deadline := rfl
@[simp] theorem State.advance_err (s : State) :
    (s.advance).err = s.err := rfl
@[simp] theorem State.advance_inputs (s : State) :
    (s.advance).inputs = s.inputs := rfl
@[simp] theorem State.advance_tick (s : State) :
    (s.advance).tick = s.tick := rfl
@[simp] theorem State.advance_rndIn (s : State) :
    (s.advance).rndIn = s.rndIn := rfl

/-! ### State.skipIf -/

@[simp] theorem State.skipIf_v (s : State) (c : Bool) :
    (s.skipIf c).v = s.v := rfl
@[simp] theorem State.skipIf_i (s : State) (c : Bool) :
    (s.skipIf c).i = s.i := rfl
@[simp] theorem State.skipIf_pc (s : State) (c : Bool) :
    (s.skipIf c).pc = s.pc + if c then 4#16 else 2#16 := rfl
@[simp] theorem State.skipIf_stack (s : State) (c : Bool) :
    (s.skipIf c).stack = s.stack := rfl
@[simp] theorem State.skipIf_sp (s : State) (c : Bool) :
    (s.skipIf c).sp = s.sp := rfl
@[simp] theorem State.skipIf_dt (s : State) (c : Bool) :
    (s.skipIf c).dt = s.dt := rfl
@[simp] theorem State.skipIf_st (s : State) (c : Bool) :
    (s.skipIf c).st = s.st := rfl
@[simp] theorem State.skipIf_keys (s : State) (c : Bool) :
    (s.skipIf c).keys = s.keys := rfl
@[simp] theorem State.skipIf_lastKey (s : State) (c : Bool) :
    (s.skipIf c).lastKey = s.lastKey := rfl
@[simp] theorem State.skipIf_mem (s : State) (c : Bool) :
    (s.skipIf c).mem = s.mem := rfl
@[simp] theorem State.skipIf_disp (s : State) (c : Bool) :
    (s.skipIf c).disp = s.disp := rfl
@[simp] theorem State.skipIf_keyWait (s : State) (c : Bool) :
    (s.skipIf c).keyWait = s.keyWait := rfl
@[simp] theorem State.skipIf_keyReg (s : State) (c : Bool) :
    (s.skipIf c).keyReg = s.keyReg := rfl
@[simp] theorem State.skipIf_vblankWait (s : State) (c : Bool) :
    (s.skipIf c).vblankWait = s.vblankWait := rfl
@[simp] theorem State.skipIf_deadline (s : State) (c : Bool) :
    (s.skipIf c).deadline = s.deadline := rfl
@[simp] theorem State.skipIf_err (s : State) (c : Bool) :
    (s.skipIf c).err = s.err := rfl
@[simp] theorem State.skipIf_inputs (s : State) (c : Bool) :
    (s.skipIf c).inputs = s.inputs := rfl
@[simp] theorem State.skipIf_tick (s : State) (c : Bool) :
    (s.skipIf c).tick = s.tick := rfl
@[simp] theorem State.skipIf_rndIn (s : State) (c : Bool) :
    (s.skipIf c).rndIn = s.rndIn := rfl

/-! ### State.memWrite -/

@[simp] theorem State.memWrite_v (s : State) (a : Nat) (b : Byte) :
    (s.memWrite a b).v = s.v := rfl
@[simp] theorem State.memWrite_i (s : State) (a : Nat) (b : Byte) :
    (s.memWrite a b).i = s.i := rfl
@[simp] theorem State.memWrite_pc (s : State) (a : Nat) (b : Byte) :
    (s.memWrite a b).pc = s.pc := rfl
@[simp] theorem State.memWrite_stack (s : State) (a : Nat) (b : Byte) :
    (s.memWrite a b).stack = s.stack := rfl
@[simp] theorem State.memWrite_sp (s : State) (a : Nat) (b : Byte) :
    (s.memWrite a b).sp = s.sp := rfl
@[simp] theorem State.memWrite_dt (s : State) (a : Nat) (b : Byte) :
    (s.memWrite a b).dt = s.dt := rfl
@[simp] theorem State.memWrite_st (s : State) (a : Nat) (b : Byte) :
    (s.memWrite a b).st = s.st := rfl
@[simp] theorem State.memWrite_keys (s : State) (a : Nat) (b : Byte) :
    (s.memWrite a b).keys = s.keys := rfl
@[simp] theorem State.memWrite_lastKey (s : State) (a : Nat) (b : Byte) :
    (s.memWrite a b).lastKey = s.lastKey := rfl
@[simp] theorem State.memWrite_mem (s : State) (a : Nat) (b : Byte) :
    (s.memWrite a b).mem = s.mem.store (maskAddr a) b := rfl
@[simp] theorem State.memWrite_disp (s : State) (a : Nat) (b : Byte) :
    (s.memWrite a b).disp = s.disp := rfl
@[simp] theorem State.memWrite_keyWait (s : State) (a : Nat) (b : Byte) :
    (s.memWrite a b).keyWait = s.keyWait := rfl
@[simp] theorem State.memWrite_keyReg (s : State) (a : Nat) (b : Byte) :
    (s.memWrite a b).keyReg = s.keyReg := rfl
@[simp] theorem State.memWrite_vblankWait (s : State) (a : Nat) (b : Byte) :
    (s.memWrite a b).vblankWait = s.vblankWait := rfl
@[simp] theorem State.memWrite_deadline (s : State) (a : Nat) (b : Byte) :
    (s.memWrite a b).deadline = s.deadline := rfl
@[simp] theorem State.memWrite_err (s : State) (a : Nat) (b : Byte) :
    (s.memWrite a b).err = s.err := rfl
@[simp] theorem State.memWrite_inputs (s : State) (a : Nat) (b : Byte) :
    (s.memWrite a b).inputs = s.inputs := rfl
@[simp] theorem State.memWrite_tick (s : State) (a : Nat) (b : Byte) :
    (s.memWrite a b).tick = s.tick := rfl
@[simp] theorem State.memWrite_rndIn (s : State) (a : Nat) (b : Byte) :
    (s.memWrite a b).rndIn = s.rndIn := rfl

/-! ### State.setKey -/

@[simp] theorem State.setKey_v (s : State) (k : Nib) (b : Bool) :
    (s.setKey k b).v = s.v := rfl
@[simp] theorem State.setKey_i (s : State) (k : Nib) (b : Bool) :
    (s.setKey k b).i = s.i := rfl
@[simp] theorem State.setKey_pc (s : State) (k : Nib) (b : Bool) :
    (s.setKey k b).pc = s.pc := rfl
@[simp] theorem State.setKey_stack (s : State) (k : Nib) (b : Bool) :
    (s.setKey k b).stack = s.stack := rfl
@[simp] theorem State.setKey_sp (s : State) (k : Nib) (b : Bool) :
    (s.setKey k b).sp = s.sp := rfl
@[simp] theorem State.setKey_dt (s : State) (k : Nib) (b : Bool) :
    (s.setKey k b).dt = s.dt := rfl
@[simp] theorem State.setKey_st (s : State) (k : Nib) (b : Bool) :
    (s.setKey k b).st = s.st := rfl
@[simp] theorem State.setKey_keys (s : State) (k : Nib) (b : Bool) :
    (s.setKey k b).keys = s.keys.set k.toNat b k.isLt := rfl
@[simp] theorem State.setKey_lastKey (s : State) (k : Nib) (b : Bool) :
    (s.setKey k b).lastKey = s.lastKey := rfl
@[simp] theorem State.setKey_mem (s : State) (k : Nib) (b : Bool) :
    (s.setKey k b).mem = s.mem := rfl
@[simp] theorem State.setKey_disp (s : State) (k : Nib) (b : Bool) :
    (s.setKey k b).disp = s.disp := rfl
@[simp] theorem State.setKey_keyWait (s : State) (k : Nib) (b : Bool) :
    (s.setKey k b).keyWait = s.keyWait := rfl
@[simp] theorem State.setKey_keyReg (s : State) (k : Nib) (b : Bool) :
    (s.setKey k b).keyReg = s.keyReg := rfl
@[simp] theorem State.setKey_vblankWait (s : State) (k : Nib) (b : Bool) :
    (s.setKey k b).vblankWait = s.vblankWait := rfl
@[simp] theorem State.setKey_deadline (s : State) (k : Nib) (b : Bool) :
    (s.setKey k b).deadline = s.deadline := rfl
@[simp] theorem State.setKey_err (s : State) (k : Nib) (b : Bool) :
    (s.setKey k b).err = s.err := rfl
@[simp] theorem State.setKey_inputs (s : State) (k : Nib) (b : Bool) :
    (s.setKey k b).inputs = s.inputs := rfl
@[simp] theorem State.setKey_tick (s : State) (k : Nib) (b : Bool) :
    (s.setKey k b).tick = s.tick := rfl
@[simp] theorem State.setKey_rndIn (s : State) (k : Nib) (b : Bool) :
    (s.setKey k b).rndIn = s.rndIn := rfl

/-! ### State.push -/

@[simp] theorem State.push_v (s : State) (a : Word) (h : s.sp.val < 16) :
    (s.push a h).v = s.v := rfl
@[simp] theorem State.push_i (s : State) (a : Word) (h : s.sp.val < 16) :
    (s.push a h).i = s.i := rfl
@[simp] theorem State.push_pc (s : State) (a : Word) (h : s.sp.val < 16) :
    (s.push a h).pc = s.pc := rfl
@[simp] theorem State.push_stack (s : State) (a : Word) (h : s.sp.val < 16) :
    (s.push a h).stack = s.stack.set s.sp.val a h := rfl
@[simp] theorem State.push_sp (s : State) (a : Word) (h : s.sp.val < 16) :
    (s.push a h).sp = ⟨s.sp.val + 1, by omega⟩ := rfl
@[simp] theorem State.push_dt (s : State) (a : Word) (h : s.sp.val < 16) :
    (s.push a h).dt = s.dt := rfl
@[simp] theorem State.push_st (s : State) (a : Word) (h : s.sp.val < 16) :
    (s.push a h).st = s.st := rfl
@[simp] theorem State.push_keys (s : State) (a : Word) (h : s.sp.val < 16) :
    (s.push a h).keys = s.keys := rfl
@[simp] theorem State.push_lastKey (s : State) (a : Word) (h : s.sp.val < 16) :
    (s.push a h).lastKey = s.lastKey := rfl
@[simp] theorem State.push_mem (s : State) (a : Word) (h : s.sp.val < 16) :
    (s.push a h).mem = s.mem := rfl
@[simp] theorem State.push_disp (s : State) (a : Word) (h : s.sp.val < 16) :
    (s.push a h).disp = s.disp := rfl
@[simp] theorem State.push_keyWait (s : State) (a : Word) (h : s.sp.val < 16) :
    (s.push a h).keyWait = s.keyWait := rfl
@[simp] theorem State.push_keyReg (s : State) (a : Word) (h : s.sp.val < 16) :
    (s.push a h).keyReg = s.keyReg := rfl
@[simp] theorem State.push_vblankWait (s : State) (a : Word) (h : s.sp.val < 16) :
    (s.push a h).vblankWait = s.vblankWait := rfl
@[simp] theorem State.push_deadline (s : State) (a : Word) (h : s.sp.val < 16) :
    (s.push a h).deadline = s.deadline := rfl
@[simp] theorem State.push_err (s : State) (a : Word) (h : s.sp.val < 16) :
    (s.push a h).err = s.err := rfl
@[simp] theorem State.push_inputs (s : State) (a : Word) (h : s.sp.val < 16) :
    (s.push a h).inputs = s.inputs := rfl
@[simp] theorem State.push_tick (s : State) (a : Word) (h : s.sp.val < 16) :
    (s.push a h).tick = s.tick := rfl
@[simp] theorem State.push_rndIn (s : State) (a : Word) (h : s.sp.val < 16) :
    (s.push a h).rndIn = s.rndIn := rfl

/-! ### State.flag -/

@[simp] theorem State.flag_v (s : State) (c : Condition) :
    (s.flag c).v = s.v := rfl
@[simp] theorem State.flag_i (s : State) (c : Condition) :
    (s.flag c).i = s.i := rfl
@[simp] theorem State.flag_pc (s : State) (c : Condition) :
    (s.flag c).pc = s.pc := rfl
@[simp] theorem State.flag_stack (s : State) (c : Condition) :
    (s.flag c).stack = s.stack := rfl
@[simp] theorem State.flag_sp (s : State) (c : Condition) :
    (s.flag c).sp = s.sp := rfl
@[simp] theorem State.flag_dt (s : State) (c : Condition) :
    (s.flag c).dt = s.dt := rfl
@[simp] theorem State.flag_st (s : State) (c : Condition) :
    (s.flag c).st = s.st := rfl
@[simp] theorem State.flag_keys (s : State) (c : Condition) :
    (s.flag c).keys = s.keys := rfl
@[simp] theorem State.flag_lastKey (s : State) (c : Condition) :
    (s.flag c).lastKey = s.lastKey := rfl
@[simp] theorem State.flag_mem (s : State) (c : Condition) :
    (s.flag c).mem = s.mem := rfl
@[simp] theorem State.flag_disp (s : State) (c : Condition) :
    (s.flag c).disp = s.disp := rfl
@[simp] theorem State.flag_keyWait (s : State) (c : Condition) :
    (s.flag c).keyWait = s.keyWait := rfl
@[simp] theorem State.flag_keyReg (s : State) (c : Condition) :
    (s.flag c).keyReg = s.keyReg := rfl
@[simp] theorem State.flag_vblankWait (s : State) (c : Condition) :
    (s.flag c).vblankWait = s.vblankWait := rfl
@[simp] theorem State.flag_deadline (s : State) (c : Condition) :
    (s.flag c).deadline = s.deadline := rfl
@[simp] theorem State.flag_err (s : State) (c : Condition) :
    (s.flag c).err = s.err ||| conditionMask c := rfl
@[simp] theorem State.flag_inputs (s : State) (c : Condition) :
    (s.flag c).inputs = s.inputs := rfl
@[simp] theorem State.flag_tick (s : State) (c : Condition) :
    (s.flag c).tick = s.tick := rfl
@[simp] theorem State.flag_rndIn (s : State) (c : Condition) :
    (s.flag c).rndIn = s.rndIn := rfl

/-! ### State.pop -/

@[simp] theorem State.pop_v (s : State) (h : 0 < s.sp.val) :
    (s.pop h).2.v = s.v := rfl
@[simp] theorem State.pop_i (s : State) (h : 0 < s.sp.val) :
    (s.pop h).2.i = s.i := rfl
@[simp] theorem State.pop_pc (s : State) (h : 0 < s.sp.val) :
    (s.pop h).2.pc = s.pc := rfl
@[simp] theorem State.pop_stack (s : State) (h : 0 < s.sp.val) :
    (s.pop h).2.stack = s.stack := rfl
@[simp] theorem State.pop_sp (s : State) (h : 0 < s.sp.val) :
    (s.pop h).2.sp = ⟨s.sp.val - 1, by omega⟩ := rfl
@[simp] theorem State.pop_dt (s : State) (h : 0 < s.sp.val) :
    (s.pop h).2.dt = s.dt := rfl
@[simp] theorem State.pop_st (s : State) (h : 0 < s.sp.val) :
    (s.pop h).2.st = s.st := rfl
@[simp] theorem State.pop_keys (s : State) (h : 0 < s.sp.val) :
    (s.pop h).2.keys = s.keys := rfl
@[simp] theorem State.pop_lastKey (s : State) (h : 0 < s.sp.val) :
    (s.pop h).2.lastKey = s.lastKey := rfl
@[simp] theorem State.pop_mem (s : State) (h : 0 < s.sp.val) :
    (s.pop h).2.mem = s.mem := rfl
@[simp] theorem State.pop_disp (s : State) (h : 0 < s.sp.val) :
    (s.pop h).2.disp = s.disp := rfl
@[simp] theorem State.pop_keyWait (s : State) (h : 0 < s.sp.val) :
    (s.pop h).2.keyWait = s.keyWait := rfl
@[simp] theorem State.pop_keyReg (s : State) (h : 0 < s.sp.val) :
    (s.pop h).2.keyReg = s.keyReg := rfl
@[simp] theorem State.pop_vblankWait (s : State) (h : 0 < s.sp.val) :
    (s.pop h).2.vblankWait = s.vblankWait := rfl
@[simp] theorem State.pop_deadline (s : State) (h : 0 < s.sp.val) :
    (s.pop h).2.deadline = s.deadline := rfl
@[simp] theorem State.pop_err (s : State) (h : 0 < s.sp.val) :
    (s.pop h).2.err = s.err := rfl
@[simp] theorem State.pop_inputs (s : State) (h : 0 < s.sp.val) :
    (s.pop h).2.inputs = s.inputs := rfl
@[simp] theorem State.pop_tick (s : State) (h : 0 < s.sp.val) :
    (s.pop h).2.tick = s.tick := rfl
@[simp] theorem State.pop_rndIn (s : State) (h : 0 < s.sp.val) :
    (s.pop h).2.rndIn = s.rndIn := rfl

/-! ### Reading a register after a write -/

@[simp] theorem State.getV_setV_self (s : State) (x : Nib) (b : Byte) : (s.setV x b).getV x = b := by
  simp [State.getV]

theorem State.getV_setV_of_ne (s : State) {x y : Nib} (b : Byte) (h : y ≠ x) : (s.setV x b).getV y = s.getV y := by
  have : x.toNat ≠ y.toNat := fun e => h (BitVec.eq_of_toNat_eq e.symm)
  simp [State.getV, Vector.getElem_set_ne, this]

theorem State.getV_setV (s : State) (x y : Nib) (b : Byte) :
    (s.setV x b).getV y = if y = x then b else s.getV y := by
  split
  · next h => rw [h, State.getV_setV_self]
  · next h => exact State.getV_setV_of_ne s b h

theorem State.getV_setVF (s : State) (y : Nib) (b : Byte) :
    (s.setVF b).getV y = if y = vf then b else s.getV y := State.getV_setV s vf y b

/-- The registers of a state are what `getV` reads. -/
theorem State.getV_congr {s t : State} (h : t.v = s.v) (x : Nib) : t.getV x = s.getV x := by
  simp [State.getV, h]

@[simp] theorem State.getV_setI (s : State) (a : Word) (x : Nib) : (s.setI a).getV x = s.getV x := rfl
@[simp] theorem State.getV_setPc (s : State) (a : Word) (x : Nib) : (s.setPc a).getV x = s.getV x := rfl
@[simp] theorem State.getV_advance (s : State) (x : Nib) : s.advance.getV x = s.getV x := rfl
@[simp] theorem State.getV_skipIf (s : State) (c : Bool) (x : Nib) : (s.skipIf c).getV x = s.getV x := rfl
@[simp] theorem State.getV_memWrite (s : State) (a : Nat) (b : Byte) (x : Nib) :
    (s.memWrite a b).getV x = s.getV x := rfl
@[simp] theorem State.getV_setKey (s : State) (k : Nib) (b : Bool) (x : Nib) :
    (s.setKey k b).getV x = s.getV x := rfl
@[simp] theorem State.getV_flag (s : State) (c : Condition) (x : Nib) : (s.flag c).getV x = s.getV x := rfl

/-! ### Reading a key after a write -/

@[simp] theorem State.key_setKey_self (s : State) (k : Nib) (b : Bool) : (s.setKey k b).key k = b := by
  simp [State.key]

theorem State.key_setKey_of_ne (s : State) {k j : Nib} (b : Bool) (h : j ≠ k) :
    (s.setKey k b).key j = s.key j := by
  have : k.toNat ≠ j.toNat := fun e => h (BitVec.eq_of_toNat_eq e.symm)
  simp [State.key, Vector.getElem_set_ne, this]

/-! ### Reading a slot after a push or a pop -/

theorem State.slot_push_of_ne (s : State) (a : Word) (h : s.sp.val < 16) (j : Fin 16) (hj : j.val ≠ s.sp.val) :
    (s.push a h).slot j = s.slot j := by
  simp [State.slot, Vector.getElem_set_ne, Ne.symm hj]

theorem State.slot_push_self (s : State) (a : Word) (h : s.sp.val < 16) :
    (s.push a h).slot ⟨s.sp.val, h⟩ = a := by
  simp [State.slot]

@[simp] theorem State.slot_pop (s : State) (h : 0 < s.sp.val) (j : Fin 16) : (s.pop h).2.slot j = s.slot j := rfl

theorem State.pop_value (s : State) (h : 0 < s.sp.val) :
    (s.pop h).1 = s.slot ⟨s.sp.val - 1, by omega⟩ := rfl

end Sys2Proof.Machine
end

