-- ==== Sys2Proof/Laws/Alu.lean ====
section
/-! SUPPORT. What the shared endings of the flag-writing instructions do to every register, said once. -/

namespace Sys2Proof.Machine

open Sys2Proof

/-- A result, then the flag: the flag wins where X is F (43_load_alu.md R166). -/
theorem resultThenFlag_getV (s : State) (x : Nib) (r f : Byte) (z : Nib) :
    (resultThenFlag s x r f).getV z = if z = vf then f else if z = x then r else s.getV z := by
  simp only [resultThenFlag, State.getV_advance, State.getV_setVF, State.getV_setV]

theorem resultThenFlag_frame (s : State) (x : Nib) (r f : Byte) :
    resultThenFlag s x r f = { s with v := (resultThenFlag s x r f).v, pc := s.pc + 2#16 } := rfl

/-- Copy, flag, shift in their literal order: where X is F the shift acts on the flag (43_load_alu.md R168, R170). -/
theorem copyFlagShift_getV (s : State) (x y : Nib) (flagOf shift : Byte → Byte) (z : Nib) :
    (copyFlagShift s x y flagOf shift).getV z =
      if z = x then shift (if x = vf then flagOf (s.getV y) else s.getV y)
      else if z = vf then flagOf (s.getV y) else s.getV z := by
  simp only [copyFlagShift, State.getV_advance, State.getV_setVF, State.getV_setV, if_true]
  by_cases hx : z = x <;> simp [hx]

theorem copyFlagShift_frame (s : State) (x y : Nib) (flagOf shift : Byte → Byte) :
    copyFlagShift s x y flagOf shift =
      { s with v := (copyFlagShift s x y flagOf shift).v, pc := s.pc + 2#16 } := rfl

/-- VF after a draw is the collision flag, and no other register changes (45_display.md R191). -/
theorem finishDraw_getV (s : State) (drawn : Display × Bool) (z : Nib) :
    (finishDraw s drawn).getV z = if z = vf then flagValue drawn.2 else s.getV z := by
  simp only [finishDraw, State.getV_advance, State.getV_setVF]
  rfl

theorem finishDraw_frame (s : State) (drawn : Display × Bool) :
    finishDraw s drawn =
      { s with v := (finishDraw s drawn).v, disp := drawn.1, vblankWait := true, pc := s.pc + 2#16 } := rfl

theorem lowBitFlag_toNat (b : Byte) : (lowBitFlag b).toNat = b.toNat % 2 := by
  simp [lowBitFlag, BitVec.toNat_and, Nat.and_one_is_mod]

theorem highBitFlag_toNat (b : Byte) : (highBitFlag b).toNat = b.toNat / 128 := by
  have := b.isLt
  simp [highBitFlag, BitVec.toNat_and, Nat.and_one_is_mod, Nat.shiftRight_eq_div_pow]
  omega

theorem flagValue_toNat (c : Bool) : (flagValue c).toNat = if c then 1 else 0 := by cases c <;> rfl

end Sys2Proof.Machine
end

