-- ==== Sys2Proof/Laws/Memory.lean ====
section
/-! SUPPORT. The laws of memory: a read after a write, and the canonical form that every operation keeps. -/

namespace Sys2Proof.Machine

open Sys2Proof

theorem maskAddr_lt (a : Nat) : maskAddr a < 4096 := Nat.mod_lt _ (by decide)

theorem maskAddr_of_lt {a : Nat} (h : a < 4096) : maskAddr a = a := Nat.mod_eq_of_lt h

@[simp] theorem maskAddr_maskAddr (a : Nat) : maskAddr (maskAddr a) = maskAddr a :=
  maskAddr_of_lt (maskAddr_lt a)

/-! ### One cell list -/

theorem Memory.lookup_push (m : Memory) (a c : Nat) (b : Byte) (h : a = c → m.lookup c = Memory.background c) :
    (Memory.push a b m).lookup c = if c = a then b else m.lookup c := by
  unfold Memory.push
  by_cases hb : b = Memory.background a
  · by_cases hc : c = a
    · subst hc; simp [hb, h rfl]
    · simp [hb, hc]
  · simp [hb, Memory.lookup]

/-- A list whose addresses all lie above `a` lists nothing for `a`. -/
theorem Memory.lookup_of_above {m : Memory} {a : Nat} (h : ∀ c ∈ m, a < c.1) :
    m.lookup a = Memory.background a := by
  induction m with
  | nil => rfl
  | cons c m ih =>
    have hc : a < c.1 := h c (by simp)
    have : a ≠ c.1 := by omega
    simp [Memory.lookup, this, ih fun d hd => h d (by simp [hd])]

/-- Rising addresses, as a proposition. -/
def Memory.Rising (m : Memory) : Prop := m.Pairwise fun p q => p.1 < q.1

theorem Memory.lookup_store (m : Memory) (hm : m.Rising) (a c : Nat) (b : Byte) :
    (m.store a b).lookup c = if c = a then b else m.lookup c := by
  induction m with
  | nil => exact Memory.lookup_push [] a c b fun h => by rfl
  | cons d m ih =>
    obtain ⟨hd, hm⟩ := List.pairwise_cons.mp hm
    unfold Memory.store
    split
    · next h =>
      apply Memory.lookup_push
      rintro rfl
      exact Memory.lookup_of_above fun e he => by
        rcases List.mem_cons.mp he with rfl | he
        · exact h
        · exact lt_trans h (hd e he)
    · split
      · next h =>
        rw [Memory.lookup_push]
        · by_cases hc : c = a
          · simp [hc]
          · have : c ≠ d.1 := by omega
            simp [Memory.lookup, hc, this]
        · rintro rfl
          exact Memory.lookup_of_above fun e he => h ▸ hd e he
      · next h₁ h₂ =>
        by_cases hc : c = d.1
        · have : c ≠ a := by omega
          simp [Memory.lookup, hc ▸ this, hc]
        · simp [Memory.lookup, hc, ih hm]

theorem Memory.wf_iff (m : Memory) :
    m.wf = true ↔ m.Rising ∧ ∀ c ∈ m, c.1 < 4096 ∧ c.2 ≠ Memory.background c.1 := by
  have : m.wf = true ↔ m.Rising ∧ ∀ c ∈ m, c.1 < Config.memSize ∧ c.2 ≠ Memory.background c.1 := by
    simp [Memory.wf, Memory.Rising]
  exact this

theorem Memory.wf_nil : Memory.wf [] = true := by decide

theorem Memory.mem_push {m : Memory} {a : Nat} {b : Byte} {c : Host.Cell} (h : c ∈ Memory.push a b m) :
    (c = (a, b) ∧ b ≠ Memory.background a) ∨ c ∈ m := by
  unfold Memory.push at h
  split at h
  · exact .inr h
  · next hb =>
    rcases List.mem_cons.mp h with h | h
    · exact .inl ⟨h, hb⟩
    · exact .inr h

theorem Memory.mem_store {m : Memory} {a : Nat} {b : Byte} {c : Host.Cell} (h : c ∈ m.store a b) :
    (c = (a, b) ∧ b ≠ Memory.background a) ∨ c ∈ m := by
  induction m with
  | nil => exact Memory.mem_push h
  | cons d m ih =>
    unfold Memory.store at h
    split at h
    · exact Memory.mem_push h
    · split at h
      · exact (Memory.mem_push h).imp_right fun h => by simp [h]
      · rcases List.mem_cons.mp h with h | h
        · exact .inr (by simp [h])
        · exact (ih h).imp_right fun h => by simp [h]

theorem Memory.rising_push {m : Memory} {a : Nat} {b : Byte} (hm : m.Rising) (h : ∀ c ∈ m, a < c.1) :
    (Memory.push a b m).Rising := by
  unfold Memory.push
  split
  · exact hm
  · exact List.pairwise_cons.mpr ⟨fun c hc => h c hc, hm⟩

theorem Memory.rising_store {m : Memory} {a : Nat} {b : Byte} (hm : m.Rising) : (m.store a b).Rising := by
  induction m with
  | nil => exact Memory.rising_push List.Pairwise.nil (by simp)
  | cons d m ih =>
    obtain ⟨hd, hm'⟩ := List.pairwise_cons.mp hm
    unfold Memory.store
    split
    · next h =>
      refine Memory.rising_push hm fun c hc => ?_
      rcases List.mem_cons.mp hc with rfl | hc
      · exact h
      · exact lt_trans h (hd c hc)
    · split
      · next h => exact Memory.rising_push hm' fun c hc => h ▸ hd c hc
      · next h₁ h₂ =>
        refine List.pairwise_cons.mpr ⟨fun c hc => ?_, ih hm'⟩
        rcases Memory.mem_store hc with ⟨rfl, _⟩ | hc
        · show d.1 < a; omega
        · exact hd c hc

/-- Every store keeps the canonical form. -/
theorem Memory.wf_store {m : Memory} {a : Nat} {b : Byte} (hm : m.wf = true) (ha : a < 4096) :
    (m.store a b).wf = true := by
  rw [Memory.wf_iff] at hm ⊢
  refine ⟨Memory.rising_store hm.1, fun c hc => ?_⟩
  rcases Memory.mem_store hc with ⟨rfl, hb⟩ | hc
  · exact ⟨ha, hb⟩
  · exact hm.2 c hc

/-! ### The machine's memory operations -/

/-- MemWrite keeps the canonical form (20_memory.md R62). -/
theorem State.wf_memWrite {s : State} {a : Nat} {b : Byte} (h : s.mem.wf = true) :
    (s.memWrite a b).mem.wf = true := Memory.wf_store h (maskAddr_lt a)

/-- MemRead after MemWrite (20_memory.md R61, R62). -/
theorem State.memRead_memWrite {s : State} (h : s.mem.wf = true) (a c : Nat) (b : Byte) :
    (s.memWrite a b).memRead c = if maskAddr c = maskAddr a then b else s.memRead c :=
  Memory.lookup_store s.mem ((Memory.wf_iff _).mp h).1 _ _ b

@[simp] theorem State.memRead_maskAddr (s : State) (a : Nat) : s.memRead (maskAddr a) = s.memRead a := by
  simp [State.memRead]

theorem State.memRead_congr {s t : State} (h : t.mem = s.mem) (a : Nat) : t.memRead a = s.memRead a := by
  simp [State.memRead, h]

@[simp] theorem State.memRead_setV (s : State) (x : Nib) (b : Byte) (a : Nat) :
    (s.setV x b).memRead a = s.memRead a := rfl
@[simp] theorem State.memRead_setI (s : State) (w : Word) (a : Nat) : (s.setI w).memRead a = s.memRead a := rfl
@[simp] theorem State.memRead_setPc (s : State) (w : Word) (a : Nat) : (s.setPc w).memRead a = s.memRead a := rfl
@[simp] theorem State.memRead_advance (s : State) (a : Nat) : s.advance.memRead a = s.memRead a := rfl

@[simp] theorem State.effAddr_setV (s : State) (x : Nib) (b : Byte) (n : Nat) :
    (s.setV x b).effAddr n = s.effAddr n := rfl
@[simp] theorem State.effAddr_memWrite (s : State) (a : Nat) (b : Byte) (n : Nat) :
    (s.memWrite a b).effAddr n = s.effAddr n := rfl
theorem State.effAddr_lt (s : State) (n : Nat) : s.effAddr n < 4096 := maskAddr_lt _
@[simp] theorem State.maskAddr_effAddr (s : State) (n : Nat) : maskAddr (s.effAddr n) = s.effAddr n :=
  maskAddr_maskAddr _

/-- Fewer than 4096 consecutive effective addresses are distinct. -/
theorem State.effAddr_inj (s : State) {m n : Nat} (hm : m < 4096) (hn : n < 4096)
    (h : s.effAddr m = s.effAddr n) : m = n := by
  simp only [State.effAddr, maskAddr, Config.memSize] at h
  omega

end Sys2Proof.Machine
end

