-- ==== Sys2Proof/Laws/Boot.lean ====
section
/-! SUPPORT. What copying a ROM into memory does to every byte, said once. -/

namespace Sys2Proof.Machine

open Sys2Proof

theorem copyBytes_frame (bytes : List Byte) (base : Nat) (s : State) :
    copyBytes base bytes s = { s with mem := (copyBytes base bytes s).mem } := by
  induction bytes generalizing base s with
  | nil => rfl
  | cons b rest ih =>
    rw [copyBytes, ih]
    rfl

theorem wf_copyBytes {s : State} (h : s.mem.wf = true) (base : Nat) (bytes : List Byte) :
    (copyBytes base bytes s).mem.wf = true := by
  induction bytes generalizing base s with
  | nil => exact h
  | cons b rest ih => exact ih (State.wf_memWrite h) (base + 1)

/-- Byte `i` of a ROM that fits lands at `base + i`, and every other byte is as before (20_memory.md R71, R72). -/
theorem copyBytes_memRead (bytes : List Byte) (base : Nat) (s : State) (h : s.mem.wf = true)
    (hfit : base + bytes.length ≤ 4096) (a : Nat) (ha : a < 4096) :
    (copyBytes base bytes s).memRead a =
      if base ≤ a ∧ a < base + bytes.length then bytes.getD (a - base) 0 else s.memRead a := by
  induction bytes generalizing base s with
  | nil =>
    have : ¬ (base ≤ a ∧ a < base + 0) := by omega
    simp only [copyBytes, List.length_nil, if_neg this]
  | cons b rest ih =>
    rw [List.length_cons] at hfit
    rw [copyBytes, ih (base + 1) _ (State.wf_memWrite h) (by omega), State.memRead_memWrite h, maskAddr_of_lt ha,
      maskAddr_of_lt (show base < 4096 by omega), List.length_cons]
    by_cases h₁ : a = base
    · subst h₁
      have : ¬ (a + 1 ≤ a ∧ a < a + 1 + rest.length) := by omega
      simp
    · by_cases h₂ : base + 1 ≤ a ∧ a < base + 1 + rest.length
      · have h₃ : base ≤ a ∧ a < base + (rest.length + 1) := by omega
        obtain ⟨k, hk⟩ : ∃ k, a - base = k + 1 := ⟨a - base - 1, by omega⟩
        have : a - (base + 1) = k := by omega
        rw [if_pos h₂, if_pos h₃, hk, this, List.getD_cons_succ]
      · have h₃ : ¬ (base ≤ a ∧ a < base + (rest.length + 1)) := by omega
        rw [if_neg h₂, if_neg h₃, if_neg h₁]

/-- The bytes of memory after a reset: FONT in 0..79 and zero elsewhere (20_memory.md R70). -/
theorem resetOp_memRead (now : Nat) (s : State) (a : Nat) :
    (resetOp now s).memRead a = Memory.background (maskAddr a) := rfl

end Sys2Proof.Machine
end

