-- ==== Sys2Proof/Laws/Decode.lean ====
section
/-! SUPPORT. Fields of words laid out in the formats of 30_encoding.md R91, and the decoding of each constructor's
word. -/

namespace Sys2Proof

theorem toNat_append_eq {n m : Nat} (x : BitVec n) (y : BitVec m) :
    (x ++ y).toNat = x.toNat * 2 ^ m + y.toNat := by
  rw [BitVec.toNat_append, ← Nat.shiftLeft_add_eq_or_of_lt y.isLt, Nat.shiftLeft_eq]

/-! ### The fields of a word, as numbers -/

theorem groupOf_toNat (w : Word) : (groupOf w).toNat = w.toNat / 4096 := by
  simp [groupOf, Nat.shiftRight_eq_div_pow]; omega
theorem fieldX_toNat (w : Word) : (fieldX w).toNat = w.toNat / 256 % 16 := by
  simp [fieldX, Nat.shiftRight_eq_div_pow]
theorem fieldY_toNat (w : Word) : (fieldY w).toNat = w.toNat / 16 % 16 := by
  simp [fieldY, Nat.shiftRight_eq_div_pow]
theorem fieldN_toNat (w : Word) : (fieldN w).toNat = w.toNat % 16 := by
  simp [fieldN]
theorem fieldNN_toNat (w : Word) : (fieldNN w).toNat = w.toNat % 256 := by
  simp [fieldNN]
theorem fieldNNN_toNat (w : Word) : (fieldNNN w).toNat = w.toNat % 4096 := by
  simp [fieldNNN]

/-! ### The words of the formats, as numbers -/

theorem formatA_toNat (g : Nib) (nnn : Addr12) : (formatA g nnn).toNat = g.toNat * 4096 + nnn.toNat := by
  have h : (formatA g nnn).toNat = g.toNat * 2 ^ 12 + nnn.toNat := toNat_append_eq g nnn
  omega

theorem formatI_toNat (g x : Nib) (nn : Byte) :
    (formatI g x nn).toNat = g.toNat * 4096 + x.toNat * 256 + nn.toNat := by
  have h₁ : (g ++ x : BitVec 8).toNat = g.toNat * 2 ^ 4 + x.toNat := toNat_append_eq g x
  have h₂ : (formatI g x nn).toNat = (g ++ x : BitVec 8).toNat * 2 ^ 8 + nn.toNat := toNat_append_eq (g ++ x) nn
  rw [h₂, h₁]; ring

theorem formatF_toNat (g x : Nib) (nn : Byte) :
    (formatF g x nn).toNat = g.toNat * 4096 + x.toNat * 256 + nn.toNat := formatI_toNat g x nn

theorem formatR_toNat (g x y n : Nib) :
    (formatR g x y n).toNat = g.toNat * 4096 + x.toNat * 256 + y.toNat * 16 + n.toNat := by
  have h₁ : (g ++ x : BitVec 8).toNat = g.toNat * 2 ^ 4 + x.toNat := toNat_append_eq g x
  have h₂ : (g ++ x ++ y : BitVec 12).toNat = (g ++ x : BitVec 8).toNat * 2 ^ 4 + y.toNat :=
    toNat_append_eq (g ++ x) y
  have h₃ : (formatR g x y n).toNat = (g ++ x ++ y : BitVec 12).toNat * 2 ^ 4 + n.toNat :=
    toNat_append_eq (g ++ x ++ y) n
  rw [h₃, h₂, h₁]; ring

/-! ### The fields of the formats -/

@[simp] theorem groupOf_formatA (g : Nib) (nnn : Addr12) : groupOf (formatA g nnn) = g := by
  apply BitVec.eq_of_toNat_eq; rw [groupOf_toNat, formatA_toNat]; omega
@[simp] theorem fieldNNN_formatA (g : Nib) (nnn : Addr12) : fieldNNN (formatA g nnn) = nnn := by
  apply BitVec.eq_of_toNat_eq; rw [fieldNNN_toNat, formatA_toNat]; omega

@[simp] theorem groupOf_formatI (g x : Nib) (nn : Byte) : groupOf (formatI g x nn) = g := by
  apply BitVec.eq_of_toNat_eq; rw [groupOf_toNat, formatI_toNat]; omega
@[simp] theorem fieldX_formatI (g x : Nib) (nn : Byte) : fieldX (formatI g x nn) = x := by
  apply BitVec.eq_of_toNat_eq; rw [fieldX_toNat, formatI_toNat]; omega
@[simp] theorem fieldNN_formatI (g x : Nib) (nn : Byte) : fieldNN (formatI g x nn) = nn := by
  apply BitVec.eq_of_toNat_eq; rw [fieldNN_toNat, formatI_toNat]; omega

@[simp] theorem groupOf_formatF (g x : Nib) (nn : Byte) : groupOf (formatF g x nn) = g := groupOf_formatI g x nn
@[simp] theorem fieldX_formatF (g x : Nib) (nn : Byte) : fieldX (formatF g x nn) = x := fieldX_formatI g x nn
@[simp] theorem fieldNN_formatF (g x : Nib) (nn : Byte) : fieldNN (formatF g x nn) = nn := fieldNN_formatI g x nn

@[simp] theorem groupOf_formatR (g x y n : Nib) : groupOf (formatR g x y n) = g := by
  apply BitVec.eq_of_toNat_eq; rw [groupOf_toNat, formatR_toNat]; omega
@[simp] theorem fieldX_formatR (g x y n : Nib) : fieldX (formatR g x y n) = x := by
  apply BitVec.eq_of_toNat_eq; rw [fieldX_toNat, formatR_toNat]; omega
@[simp] theorem fieldY_formatR (g x y n : Nib) : fieldY (formatR g x y n) = y := by
  apply BitVec.eq_of_toNat_eq; rw [fieldY_toNat, formatR_toNat]; omega
@[simp] theorem fieldN_formatR (g x y n : Nib) : fieldN (formatR g x y n) = n := by
  apply BitVec.eq_of_toNat_eq; rw [fieldN_toNat, formatR_toNat]; omega

/-! ### Each format, decoded as far as its group -/

theorem decodeWord_formatA (g : Nib) (nnn : Addr12) :
    ∃ x y n nn, decodeWord (formatA g nnn) = decodeFields g x y n nn nnn :=
  ⟨_, _, _, _, by simp [decodeWord]; rfl⟩

theorem decodeWord_formatI (g x : Nib) (nn : Byte) :
    ∃ y n nnn, decodeWord (formatI g x nn) = decodeFields g x y n nn nnn :=
  ⟨_, _, _, by simp [decodeWord]; rfl⟩

theorem decodeWord_formatF (g x : Nib) (nn : Byte) :
    ∃ y n nnn, decodeWord (formatF g x nn) = decodeFields g x y n nn nnn := decodeWord_formatI g x nn

theorem decodeWord_formatR (g x y n : Nib) :
    ∃ nn nnn, decodeWord (formatR g x y n) = decodeFields g x y n nn nnn :=
  ⟨_, _, by simp [decodeWord]; rfl⟩

/-! ### Two bytes and their word -/

theorem wordOfBytes_toNat (hi lo : Byte) : (wordOfBytes hi lo).toNat = hi.toNat * 256 + lo.toNat := by
  have h : (wordOfBytes hi lo).toNat = hi.toNat * 2 ^ 8 + lo.toNat := toNat_append_eq hi lo
  omega

/-- The two bytes of a word give the word back (20_memory.md R64). -/
theorem wordOfBytes_bytesOfWord (w : Word) :
    wordOfBytes (w.extractLsb' 8 8) (w.extractLsb' 0 8) = w := by
  apply BitVec.eq_of_toNat_eq
  rw [wordOfBytes_toNat]
  simp [Nat.shiftRight_eq_div_pow]
  omega

/-- Two bytes make a word whose bytes they are (20_memory.md R64). -/
theorem bytesOfWord_wordOfBytes (hi lo : Byte) : bytesOfWord (wordOfBytes hi lo) = [hi, lo] := by
  have h := wordOfBytes_toNat hi lo
  have h₁ : (wordOfBytes hi lo).extractLsb' 8 8 = hi := by
    apply BitVec.eq_of_toNat_eq
    simp [Nat.shiftRight_eq_div_pow, h]
    omega
  have h₂ : (wordOfBytes hi lo).extractLsb' 0 8 = lo := by
    apply BitVec.eq_of_toNat_eq
    simp [h]
    exact lo.isLt
  rw [bytesOfWord, h₁, h₂]

/-- A word is its group and its three other nibbles, in each way a format reads them (30_encoding.md R91, R92). -/
theorem word_eq_formatA (w : Word) : w = formatA (groupOf w) (fieldNNN w) := by
  apply BitVec.eq_of_toNat_eq; rw [formatA_toNat, groupOf_toNat, fieldNNN_toNat]; omega
theorem word_eq_formatI (w : Word) : w = formatI (groupOf w) (fieldX w) (fieldNN w) := by
  apply BitVec.eq_of_toNat_eq; rw [formatI_toNat, groupOf_toNat, fieldX_toNat, fieldNN_toNat]; omega
theorem word_eq_formatR (w : Word) : w = formatR (groupOf w) (fieldX w) (fieldY w) (fieldN w) := by
  apply BitVec.eq_of_toNat_eq; rw [formatR_toNat, groupOf_toNat, fieldX_toNat, fieldY_toNat, fieldN_toNat]; omega

theorem decode_two (hi lo : Byte) (rest : List Byte) :
    decode (hi :: lo :: rest) = (decodeWord (wordOfBytes hi lo)).map fun i => (i, rest) := rfl

end Sys2Proof
end

