-- ==== Sys2Proof/Laws/Display.lean ====
section
/-! SUPPORT. What drawing a sprite does to each cell and to the collision flag, said once. -/

namespace Sys2Proof.Machine

open Sys2Proof

/-- The cell lies on the display. -/
def onScreen (x y : Nat) : Bool := decide (y < 32 ∧ x < 64)

theorem Display.cell_off_screen (d : Display) {x y : Nat} (h : onScreen x y = false) : d.cell x y = false := by
  have : ¬ (y < 32 ∧ x < 64) := by simpa [onScreen] using h
  rw [Display.cell, dif_neg this]

theorem Display.cell_toggle_of_ne (d : Display) {x y x' y' : Nat} (h : ¬ (x' = x ∧ y' = y)) :
    (d.toggle x y).cell x' y' = d.cell x' y' := by
  unfold Display.toggle
  by_cases on : y < 32 ∧ x < 64
  · rw [dif_pos on]
    by_cases on' : y' < 32 ∧ x' < 64
    · rw [Display.cell, Display.cell, dif_pos on', dif_pos on']
      by_cases hy : y' = y
      · subst hy
        have hx : x ≠ x' := fun e => h ⟨e.symm, rfl⟩
        simp [Vector.getElem_set_ne, hx]
      · simp [Vector.getElem_set_ne, Ne.symm hy]
    · rw [Display.cell, Display.cell, dif_neg on', dif_neg on']
  · rw [dif_neg on]

theorem Display.cell_toggle_self (d : Display) {x y : Nat} (h : onScreen x y = true) :
    (d.toggle x y).cell x y = !d.cell x y := by
  have on : y < 32 ∧ x < 64 := by simpa [onScreen] using h
  simp [Display.toggle, Display.cell, on]

theorem Display.cell_toggle (d : Display) (x y x' y' : Nat) :
    (d.toggle x y).cell x' y' = (d.cell x' y' ^^ (decide (x' = x ∧ y' = y) && onScreen x' y')) := by
  by_cases h : x' = x ∧ y' = y
  · obtain ⟨rfl, rfl⟩ := h
    cases on : onScreen x' y'
    · simp [Display.cell_off_screen _ on]
    · simp [Display.cell_toggle_self d on]
  · simp [Display.cell_toggle_of_ne d h, h]

/-- The set bit of a row byte `b`, drawn with column 0 at `x0`, that lies at `x` among its first `n` columns. -/
def rowCovers (b : Byte) (x0 n x : Nat) : Bool := decide (x0 ≤ x ∧ x < x0 + n) && spriteBit b (x - x0)

/-- The first `n` columns of a row. -/
def drawColumns (b : Byte) (x0 y n : Nat) (c : Display × Bool) : Display × Bool :=
  (List.range n).foldl (fun c col => if spriteBit b col then drawCell c (x0 + col) y else c) c

theorem drawColumns_succ (b : Byte) (x0 y n : Nat) (c : Display × Bool) :
    drawColumns b x0 y (n + 1) c =
      if spriteBit b n then drawCell (drawColumns b x0 y n c) (x0 + n) y else drawColumns b x0 y n c := by
  simp [drawColumns, List.range_succ]

theorem rowCovers_succ (b : Byte) (x0 n x : Nat) :
    rowCovers b x0 (n + 1) x = (rowCovers b x0 n x || (decide (x = x0 + n) && spriteBit b n)) := by
  unfold rowCovers
  by_cases h : x = x0 + n
  · subst h; simp
  · have : (x0 ≤ x ∧ x < x0 + (n + 1)) ↔ (x0 ≤ x ∧ x < x0 + n) := by omega
    simp only [this]; simp [h]

theorem rowCovers_at_end (b : Byte) (x0 n : Nat) : rowCovers b x0 n (x0 + n) = false := by
  simp [rowCovers]

theorem rowCovers_zero (b : Byte) (x0 x : Nat) : rowCovers b x0 0 x = false := by
  have : ¬ (x0 ≤ x ∧ x < x0 + 0) := by omega
  rw [rowCovers, decide_eq_false this, Bool.false_and]

/-- Each cell of the row is toggled once for its set bit, if it is on the display. -/
theorem drawColumns_cell (b : Byte) (x0 y n : Nat) (c : Display × Bool) (x' y' : Nat) :
    (drawColumns b x0 y n c).1.cell x' y' =
      (c.1.cell x' y' ^^ (decide (y' = y) && rowCovers b x0 n x' && onScreen x' y')) := by
  induction n with
  | zero => simp [drawColumns, rowCovers_zero]
  | succ n ih =>
    rw [drawColumns_succ, rowCovers_succ]
    cases hb : spriteBit b n
    · simp [ih]
    · by_cases h : x' = x0 + n ∧ y' = y
      · obtain ⟨rfl, rfl⟩ := h
        simp [drawCell, Display.cell_toggle, ih, rowCovers_at_end]
      · have : (decide (y' = y) && (rowCovers b x0 n x' || decide (x' = x0 + n))) =
            (decide (y' = y) && rowCovers b x0 n x') := by
          by_cases hy : y' = y
          · have : x' ≠ x0 + n := fun e => h ⟨e, hy⟩
            simp [this]
          · simp [hy]
        simp [drawCell, Display.cell_toggle, ih, h, this]

/-- A collision is noted if one was noted before, or the row has a set bit at a cell that was 1. -/
theorem drawColumns_hit (b : Byte) (x0 y n : Nat) (c : Display × Bool) :
    (drawColumns b x0 y n c).2 = true ↔
      c.2 = true ∨ ∃ x', rowCovers b x0 n x' = true ∧ c.1.cell x' y = true := by
  induction n with
  | zero => simp [drawColumns, rowCovers_zero]
  | succ n ih =>
    rw [drawColumns_succ]
    cases hb : spriteBit b n
    · simp [ih, rowCovers_succ, hb]
    · simp only [drawCell, if_true, Bool.or_eq_true, ih, rowCovers_succ, hb, Bool.and_true, decide_eq_true_eq,
        drawColumns_cell, rowCovers_at_end, Bool.and_false, Bool.false_and, Bool.xor_false]
      constructor
      · rintro ((h | ⟨x', h, h'⟩) | h)
        · exact .inl h
        · exact .inr ⟨x', .inl h, h'⟩
        · exact .inr ⟨x0 + n, .inr rfl, h⟩
      · rintro (h | ⟨x', h | rfl, h'⟩)
        · exact .inl (.inl h)
        · exact .inl (.inr ⟨x', h, h'⟩)
        · exact .inr h'

theorem drawRow_cell (b : Byte) (x0 y : Nat) (c : Display × Bool) (x' y' : Nat) :
    (drawRow b x0 y c).1.cell x' y' =
      (c.1.cell x' y' ^^ (decide (y' = y) && rowCovers b x0 8 x' && onScreen x' y')) :=
  drawColumns_cell b x0 y 8 c x' y'

theorem drawRow_hit (b : Byte) (x0 y : Nat) (c : Display × Bool) :
    (drawRow b x0 y c).2 = true ↔
      c.2 = true ∨ ∃ x', rowCovers b x0 8 x' = true ∧ c.1.cell x' y = true :=
  drawColumns_hit b x0 y 8 c

/-- Does a set bit of the `n`-row sprite at I, drawn at `(x0, y0)`, lie at `(x, y)`? -/
def spriteCovers (s : State) (x0 y0 n x y : Nat) : Bool :=
  decide (y0 ≤ y ∧ y < y0 + n) && rowCovers (s.memRead (s.effAddr (y - y0))) x0 8 x

theorem drawSprite_succ (s : State) (x0 y0 n : Nat) :
    drawSprite s x0 y0 (n + 1) =
      drawRow (s.memRead (s.effAddr n)) x0 (y0 + n) (drawSprite s x0 y0 n) := by
  simp [drawSprite, List.range_succ]

theorem spriteCovers_succ (s : State) (x0 y0 n x y : Nat) :
    spriteCovers s x0 y0 (n + 1) x y =
      (spriteCovers s x0 y0 n x y || (decide (y = y0 + n) && rowCovers (s.memRead (s.effAddr n)) x0 8 x)) := by
  unfold spriteCovers
  by_cases h : y = y0 + n
  · subst h; simp
  · have : (y0 ≤ y ∧ y < y0 + (n + 1)) ↔ (y0 ≤ y ∧ y < y0 + n) := by omega
    simp only [this]; simp [h]

theorem spriteCovers_at_end (s : State) (x0 y0 n x : Nat) : spriteCovers s x0 y0 n x (y0 + n) = false := by
  simp [spriteCovers]

theorem spriteCovers_zero (s : State) (x0 y0 x y : Nat) : spriteCovers s x0 y0 0 x y = false := by
  have : ¬ (y0 ≤ y ∧ y < y0 + 0) := by omega
  rw [spriteCovers, decide_eq_false this, Bool.false_and]

/-- Each cell of the display is toggled once if a set sprite bit lies on it, and is as before otherwise
(45_display.md R191). -/
theorem drawSprite_cell (s : State) (x0 y0 n x y : Nat) :
    (drawSprite s x0 y0 n).1.cell x y =
      (s.disp.cell x y ^^ (spriteCovers s x0 y0 n x y && onScreen x y)) := by
  induction n with
  | zero => simp [drawSprite, spriteCovers_zero]
  | succ n ih =>
    rw [drawSprite_succ, drawRow_cell, ih, spriteCovers_succ]
    by_cases h : y = y0 + n
    · subst h; simp [spriteCovers_at_end]
    · simp [h]

/-- A collision is reported exactly if some set sprite bit lies on a cell that was 1 (45_display.md R191). -/
theorem drawSprite_hit (s : State) (x0 y0 n : Nat) :
    (drawSprite s x0 y0 n).2 = true ↔
      ∃ x y, spriteCovers s x0 y0 n x y = true ∧ s.disp.cell x y = true := by
  induction n with
  | zero => simp [drawSprite, spriteCovers_zero]
  | succ n ih =>
    simp only [drawSprite_succ, drawRow_hit, ih, drawSprite_cell, spriteCovers_succ, spriteCovers_at_end,
      Bool.false_and, Bool.xor_false, Bool.or_eq_true, Bool.and_eq_true, decide_eq_true_eq]
    constructor
    · rintro (⟨x, y, h, h'⟩ | ⟨x, h, h'⟩)
      · exact ⟨x, y, .inl h, h'⟩
      · exact ⟨x, y0 + n, .inr ⟨rfl, h⟩, h'⟩
    · rintro ⟨x, y, h | ⟨rfl, h⟩, h'⟩
      · exact .inl ⟨x, y, h, h'⟩
      · exact .inr ⟨x, h, h'⟩

theorem blankDisplay_cell (x y : Nat) : blankDisplay.cell x y = false := by
  unfold Display.cell blankDisplay
  split <;> simp

/-- Two displays with the same cells are the same display. -/
theorem Display.ext_cell {d e : Display} (h : ∀ x y, d.cell x y = e.cell x y) : d = e := by
  apply Vector.ext
  intro y hy
  apply Vector.ext
  intro x hx
  have := h x y
  simpa [Display.cell, hx, hy] using this

end Sys2Proof.Machine
end

