-- ==== Sys2Proof/Laws/Footprint.lean ====
section
/-! SUPPORT. How a frame is shown: the register and memory clauses, and one equation for all the rest. -/

namespace Sys2Proof.Machine

open Sys2Proof

/-- A state that differs from `s` in pc and the footprint's parts only is framed by the footprint. -/
theorem Frame.of_update {f : Footprint} {s t : State} (regs : ∀ r, r ∉ f.regs → t.getV r = s.getV r)
    (mem : ∀ a, maskAddr a ∉ f.mem → t.memRead a = s.memRead a)
    (rest : t = { s with
      v := t.v
      mem := t.mem
      pc := t.pc
      i := if f.index then t.i else s.i
      stack := if f.stack then t.stack else s.stack
      sp := if f.stack then t.sp else s.sp
      dt := if f.dt then t.dt else s.dt
      st := if f.st then t.st else s.st
      keyWait := if f.keyLatch then t.keyWait else s.keyWait
      keyReg := if f.keyLatch then t.keyReg else s.keyReg
      vblankWait := if f.vblankLatch then t.vblankWait else s.vblankWait
      disp := if f.disp then t.disp else s.disp
      err := if f.err then t.err else s.err }) :
    Frame f s t := by
  refine ⟨regs, mem, ?_⟩
  rw [rest]
  refine ⟨fun h => ?_, fun h => ?_, fun h => ?_, fun h => ?_, fun h => ?_, fun h => ?_, fun h => ?_, fun h => ?_,
    fun _ => rfl, rfl, rfl, rfl, rfl, rfl⟩ <;> simp [h, State.slot]

/-- The engine is in Normal exactly if neither latch is set (10_state.md R35). -/
theorem State.engine_normal {s : State} (h : s.engine = .normal) : s.vblankWait = false ∧ s.keyWait = false := by
  unfold State.engine at h
  cases hv : s.vblankWait <;> cases hk : s.keyWait <;> simp_all

end Sys2Proof.Machine
end

