-- ==== Sys2Proof/Laws/Frame.lean ====
section
/-! SUPPORT. The frame gate: the deadline's catch-up is the literal loop of the spec, and what the gate leaves alone. -/

namespace Sys2Proof.Machine

open Sys2Proof

theorem framePeriod_pos : 0 < Config.framePeriod := Nat.succ_pos _

/-- "repeat deadline <- deadline + FRAME_PERIOD until deadline > now" (47_frame_and_key_events.md R211): one round,
and the loop again while `now` is not passed. -/
theorem catchUp_loop (period now deadline : Nat) (hp : 0 < period) (hd : deadline ≤ now) :
    catchUp period now deadline =
      if now < deadline + period then deadline + period else catchUp period now (deadline + period) := by
  unfold catchUp
  split
  · next h => rw [Nat.div_eq_of_lt (by omega)]; omega
  · next h =>
    have : now - deadline = (now - (deadline + period)) + period := by omega
    rw [this, Nat.add_div_right _ hp]
    ring

theorem catchUp_gt (period now deadline : Nat) (hp : 0 < period) (hd : deadline ≤ now) :
    now < catchUp period now deadline := by
  have := Nat.lt_div_mul_add (a := now - deadline) hp
  unfold catchUp
  rw [Nat.add_mul]
  omega

theorem catchUp_le (period now deadline : Nat) (hd : deadline ≤ now) :
    catchUp period now deadline ≤ now + period := by
  have := Nat.div_mul_le_self (now - deadline) period
  unfold catchUp
  rw [Nat.add_mul]
  omega

/-- A due gate takes a timer `t` to `max(t − 1, 0)`; a gate that is not due leaves it (47_frame_and_key_events.md
R215(b)). -/
theorem timerAfterGate_toNat (due : Bool) (t : Byte) :
    (timerAfterGate due t).toNat = if due then t.toNat - 1 else t.toNat := by
  by_cases h : t = 0#8
  · subst h; cases due <;> rfl
  · have : t.toNat ≠ 0 := fun e => h (BitVec.eq_of_toNat_eq e)
    have one : (1#8).toNat = 1 := rfl
    have hlt := t.isLt
    rw [timerAfterGate, if_neg h]
    cases due
    · rfl
    · simp only [if_true, BitVec.toNat_sub, one]
      omega

theorem State.due_iff (s : State) (now : Nat) : s.due now = true ↔ s.deadline ≤ now := by simp [State.due]

/-- A gate that is not due has no effect at all. -/
theorem frameGate_not_due {s : State} {now : Nat} (h : now < s.deadline) : frameGate now s = s := by
  have hd : s.due now = false := by simp [State.due, h]
  have ht (t : Byte) : timerAfterGate false t = t := by
    by_cases h : t = 0#8
    · rw [timerAfterGate, if_pos h, h]
    · rw [timerAfterGate, if_neg h]; rfl
  simp [frameGate, gateDue, hd, ht]

@[simp] theorem frameGate_v (now : Nat) (s : State) : (frameGate now s).v = s.v := rfl
@[simp] theorem frameGate_i (now : Nat) (s : State) : (frameGate now s).i = s.i := rfl
@[simp] theorem frameGate_pc (now : Nat) (s : State) : (frameGate now s).pc = s.pc := rfl
@[simp] theorem frameGate_stack (now : Nat) (s : State) : (frameGate now s).stack = s.stack := rfl
@[simp] theorem frameGate_sp (now : Nat) (s : State) : (frameGate now s).sp = s.sp := rfl
@[simp] theorem frameGate_keys (now : Nat) (s : State) : (frameGate now s).keys = s.keys := rfl
@[simp] theorem frameGate_lastKey (now : Nat) (s : State) : (frameGate now s).lastKey = s.lastKey := rfl
@[simp] theorem frameGate_mem (now : Nat) (s : State) : (frameGate now s).mem = s.mem := rfl
@[simp] theorem frameGate_disp (now : Nat) (s : State) : (frameGate now s).disp = s.disp := rfl
@[simp] theorem frameGate_keyWait (now : Nat) (s : State) : (frameGate now s).keyWait = s.keyWait := rfl
@[simp] theorem frameGate_keyReg (now : Nat) (s : State) : (frameGate now s).keyReg = s.keyReg := rfl
@[simp] theorem frameGate_err (now : Nat) (s : State) : (frameGate now s).err = s.err := rfl
@[simp] theorem frameGate_inputs (now : Nat) (s : State) : (frameGate now s).inputs = s.inputs := rfl
@[simp] theorem frameGate_tick (now : Nat) (s : State) : (frameGate now s).tick = s.tick := rfl
@[simp] theorem frameGate_rndIn (now : Nat) (s : State) : (frameGate now s).rndIn = s.rndIn := rfl
@[simp] theorem frameGate_dt (now : Nat) (s : State) :
    (frameGate now s).dt = timerAfterGate (s.due now) s.dt := rfl
@[simp] theorem frameGate_st (now : Nat) (s : State) :
    (frameGate now s).st = timerAfterGate (s.due now) s.st := rfl
@[simp] theorem frameGate_vblankWait (now : Nat) (s : State) :
    (frameGate now s).vblankWait = (s.vblankWait && !s.due now) := rfl
theorem frameGate_deadline (now : Nat) (s : State) :
    (frameGate now s).deadline = if s.due now then catchUp Config.framePeriod now s.deadline else s.deadline := rfl

/-- A due gate: one decrement of each timer that is not zero, the vblank wait cleared, the deadline moved past `now`. -/
theorem frameGate_due {s : State} {now : Nat} (h : s.deadline ≤ now) :
    (frameGate now s).dt.toNat = s.dt.toNat - 1 ∧ (frameGate now s).st.toNat = s.st.toNat - 1 ∧
    (frameGate now s).vblankWait = false ∧
    (frameGate now s).deadline = s.deadline + ((now - s.deadline) / Config.framePeriod + 1) * Config.framePeriod ∧
    now < (frameGate now s).deadline ∧ (frameGate now s).deadline ≤ now + Config.framePeriod := by
  have hd : s.due now = true := (State.due_iff s now).mpr h
  have hdl : (frameGate now s).deadline = catchUp Config.framePeriod now s.deadline := by
    rw [frameGate_deadline, if_pos hd]
  refine ⟨?_, ?_, by simp [hd], hdl, ?_, ?_⟩
  · simp [timerAfterGate_toNat, hd]
  · simp [timerAfterGate_toNat, hd]
  · rw [hdl]; exact catchUp_gt _ _ _ framePeriod_pos h
  · rw [hdl]; exact catchUp_le _ _ _ h

end Sys2Proof.Machine
end

