-- ==== Sys2Proof/Laws/Operands.lean ====
section
/-! SUPPORT. What each operand form computes, as a number: one lemma per operand function. -/

namespace Sys2Proof.Machine

open Sys2Proof

/-- The 12-bit mask (00_scope.md R11). -/
theorem and_mask_toNat (w : Word) : (w &&& 0x0FFF#16).toNat = w.toNat % 4096 := by
  rw [BitVec.toNat_and]
  exact Nat.and_two_pow_sub_one_eq_mod w.toNat 12

theorem addrWord_toNat (nnn : Addr12) : (addrWord nnn).toNat = nnn.toNat := by
  have := nnn.isLt
  simp [addrWord]
  omega

theorem offsetTarget_toNat (v0 : Byte) (nnn : Addr12) : (offsetTarget v0 nnn).toNat = v0.toNat + nnn.toNat := by
  have := v0.isLt
  have := nnn.isLt
  simp [offsetTarget]
  omega

theorem addToI_toNat (i : Word) (b : Byte) : (addToI i b).toNat = (i.toNat + b.toNat) % 4096 := by
  have := b.isLt
  rw [addToI, and_mask_toNat]
  simp

theorem glyphAddr_toNat (b : Byte) : (glyphAddr b).toNat = b.toNat % 16 * 5 := by
  have h : (b &&& 0x0F#8).toNat = b.toNat % 16 := by
    rw [BitVec.toNat_and]
    exact Nat.and_two_pow_sub_one_eq_mod _ 4
  simp only [glyphAddr, BitVec.toNat_mul, BitVec.toNat_setWidth, h]
  simp
  omega

theorem keyOf_toNat (b : Byte) : (keyOf b).toNat = b.toNat % 16 := by simp [keyOf]

theorem indexAfterTransfer_toNat (advances : Bool) (i : Word) (x : Nib) :
    (indexAfterTransfer advances i x).toNat = if advances then (i.toNat + x.toNat + 1) % 4096 else i.toNat := by
  cases advances
  · rfl
  · simp only [indexAfterTransfer, if_true, and_mask_toNat]
    simp

end Sys2Proof.Machine
end

