-- ==== Sys2Proof/Laws/PerInstr.lean ====
section
/-! SUPPORT. Per-instruction families: `RoundTrip`, the word of a well-formed instruction decodes to it. -/

namespace Sys2Proof.Laws.RoundTrip

open Sys2Proof

/-- The word of `i`, if `i` is well-formed, decodes to `i`. -/
def Statement (i : Instr) : Prop := i.wellFormed = true → decodeWord (encodeWord i) = .ok i

theorem cls : Statement .cls := fun _ => by decide
theorem ret : Statement .ret := fun _ => by decide

theorem sys (nnn : Addr12) : Statement (.sys nnn) := fun h => by
  obtain ⟨x, y, n, nn, e⟩ := decodeWord_formatA 0x0#4 nnn
  have : nnn ≠ 0x0E0#12 ∧ nnn ≠ 0x0EE#12 := by simpa [Instr.wellFormed, sysOperandOk] using h
  simp [encodeWord, e, decodeFields, decodeGroup0, this]

theorem jp (nnn : Addr12) : Statement (.jp nnn) := fun _ => by
  obtain ⟨x, y, n, nn, e⟩ := decodeWord_formatA 0x1#4 nnn
  simp [encodeWord, e, decodeFields]

theorem call (nnn : Addr12) : Statement (.call nnn) := fun _ => by
  obtain ⟨x, y, n, nn, e⟩ := decodeWord_formatA 0x2#4 nnn
  simp [encodeWord, e, decodeFields]

theorem ldI (nnn : Addr12) : Statement (.ldI nnn) := fun _ => by
  obtain ⟨x, y, n, nn, e⟩ := decodeWord_formatA 0xA#4 nnn
  simp [encodeWord, e, decodeFields]

theorem jpV0 (nnn : Addr12) : Statement (.jpV0 nnn) := fun _ => by
  obtain ⟨x, y, n, nn, e⟩ := decodeWord_formatA 0xB#4 nnn
  simp [encodeWord, e, decodeFields]

theorem seImm (x : Nib) (nn : Byte) : Statement (.seImm x nn) := fun _ => by
  obtain ⟨y, n, nnn, e⟩ := decodeWord_formatI 0x3#4 x nn
  simp [encodeWord, e, decodeFields]

theorem sneImm (x : Nib) (nn : Byte) : Statement (.sneImm x nn) := fun _ => by
  obtain ⟨y, n, nnn, e⟩ := decodeWord_formatI 0x4#4 x nn
  simp [encodeWord, e, decodeFields]

theorem ldImm (x : Nib) (nn : Byte) : Statement (.ldImm x nn) := fun _ => by
  obtain ⟨y, n, nnn, e⟩ := decodeWord_formatI 0x6#4 x nn
  simp [encodeWord, e, decodeFields]

theorem addImm (x : Nib) (nn : Byte) : Statement (.addImm x nn) := fun _ => by
  obtain ⟨y, n, nnn, e⟩ := decodeWord_formatI 0x7#4 x nn
  simp [encodeWord, e, decodeFields]

theorem rnd (x : Nib) (nn : Byte) : Statement (.rnd x nn) := fun _ => by
  obtain ⟨y, n, nnn, e⟩ := decodeWord_formatI 0xC#4 x nn
  simp [encodeWord, e, decodeFields]

theorem seReg (x y : Nib) : Statement (.seReg x y) := fun _ => by
  obtain ⟨nn, nnn, e⟩ := decodeWord_formatR 0x5#4 x y 0x0#4
  simp [encodeWord, e, decodeFields]

theorem ldReg (x y : Nib) : Statement (.ldReg x y) := fun _ => by
  obtain ⟨nn, nnn, e⟩ := decodeWord_formatR 0x8#4 x y 0x0#4
  simp [encodeWord, e, decodeFields, decodeGroup8]

theorem orReg (x y : Nib) : Statement (.orReg x y) := fun _ => by
  obtain ⟨nn, nnn, e⟩ := decodeWord_formatR 0x8#4 x y 0x1#4
  simp [encodeWord, e, decodeFields, decodeGroup8]

theorem andReg (x y : Nib) : Statement (.andReg x y) := fun _ => by
  obtain ⟨nn, nnn, e⟩ := decodeWord_formatR 0x8#4 x y 0x2#4
  simp [encodeWord, e, decodeFields, decodeGroup8]

theorem xorReg (x y : Nib) : Statement (.xorReg x y) := fun _ => by
  obtain ⟨nn, nnn, e⟩ := decodeWord_formatR 0x8#4 x y 0x3#4
  simp [encodeWord, e, decodeFields, decodeGroup8]

theorem addReg (x y : Nib) : Statement (.addReg x y) := fun _ => by
  obtain ⟨nn, nnn, e⟩ := decodeWord_formatR 0x8#4 x y 0x4#4
  simp [encodeWord, e, decodeFields, decodeGroup8]

theorem subReg (x y : Nib) : Statement (.subReg x y) := fun _ => by
  obtain ⟨nn, nnn, e⟩ := decodeWord_formatR 0x8#4 x y 0x5#4
  simp [encodeWord, e, decodeFields, decodeGroup8]

theorem shr (x y : Nib) : Statement (.shr x y) := fun _ => by
  obtain ⟨nn, nnn, e⟩ := decodeWord_formatR 0x8#4 x y 0x6#4
  simp [encodeWord, e, decodeFields, decodeGroup8]

theorem subn (x y : Nib) : Statement (.subn x y) := fun _ => by
  obtain ⟨nn, nnn, e⟩ := decodeWord_formatR 0x8#4 x y 0x7#4
  simp [encodeWord, e, decodeFields, decodeGroup8]

theorem shl (x y : Nib) : Statement (.shl x y) := fun _ => by
  obtain ⟨nn, nnn, e⟩ := decodeWord_formatR 0x8#4 x y 0xE#4
  simp [encodeWord, e, decodeFields, decodeGroup8]

theorem sneReg (x y : Nib) : Statement (.sneReg x y) := fun _ => by
  obtain ⟨nn, nnn, e⟩ := decodeWord_formatR 0x9#4 x y 0x0#4
  simp [encodeWord, e, decodeFields]

theorem drw (x y n : Nib) : Statement (.drw x y n) := fun _ => by
  obtain ⟨nn, nnn, e⟩ := decodeWord_formatR 0xD#4 x y n
  simp [encodeWord, e, decodeFields]

theorem skp (x : Nib) : Statement (.skp x) := fun _ => by
  obtain ⟨y, n, nnn, e⟩ := decodeWord_formatF 0xE#4 x 0x9E#8
  simp [encodeWord, e, decodeFields, decodeGroupE]

theorem sknp (x : Nib) : Statement (.sknp x) := fun _ => by
  obtain ⟨y, n, nnn, e⟩ := decodeWord_formatF 0xE#4 x 0xA1#8
  simp [encodeWord, e, decodeFields, decodeGroupE]

theorem ldVxDt (x : Nib) : Statement (.ldVxDt x) := fun _ => by
  obtain ⟨y, n, nnn, e⟩ := decodeWord_formatF 0xF#4 x 0x07#8
  simp [encodeWord, e, decodeFields, decodeGroupF]

theorem ldVxK (x : Nib) : Statement (.ldVxK x) := fun _ => by
  obtain ⟨y, n, nnn, e⟩ := decodeWord_formatF 0xF#4 x 0x0A#8
  simp [encodeWord, e, decodeFields, decodeGroupF]

theorem ldDtVx (x : Nib) : Statement (.ldDtVx x) := fun _ => by
  obtain ⟨y, n, nnn, e⟩ := decodeWord_formatF 0xF#4 x 0x15#8
  simp [encodeWord, e, decodeFields, decodeGroupF]

theorem ldStVx (x : Nib) : Statement (.ldStVx x) := fun _ => by
  obtain ⟨y, n, nnn, e⟩ := decodeWord_formatF 0xF#4 x 0x18#8
  simp [encodeWord, e, decodeFields, decodeGroupF]

theorem addI (x : Nib) : Statement (.addI x) := fun _ => by
  obtain ⟨y, n, nnn, e⟩ := decodeWord_formatF 0xF#4 x 0x1E#8
  simp [encodeWord, e, decodeFields, decodeGroupF]

theorem ldF (x : Nib) : Statement (.ldF x) := fun _ => by
  obtain ⟨y, n, nnn, e⟩ := decodeWord_formatF 0xF#4 x 0x29#8
  simp [encodeWord, e, decodeFields, decodeGroupF]

theorem ldB (x : Nib) : Statement (.ldB x) := fun _ => by
  obtain ⟨y, n, nnn, e⟩ := decodeWord_formatF 0xF#4 x 0x33#8
  simp [encodeWord, e, decodeFields, decodeGroupF]

theorem ldMemVx (x : Nib) : Statement (.ldMemVx x) := fun _ => by
  obtain ⟨y, n, nnn, e⟩ := decodeWord_formatF 0xF#4 x 0x55#8
  simp [encodeWord, e, decodeFields, decodeGroupF]

theorem ldVxMem (x : Nib) : Statement (.ldVxMem x) := fun _ => by
  obtain ⟨y, n, nnn, e⟩ := decodeWord_formatF 0xF#4 x 0x65#8
  simp [encodeWord, e, decodeFields, decodeGroupF]

end Sys2Proof.Laws.RoundTrip
end

