-- ==== Sys2Proof/Laws/Step.lean ====
section
/-! SUPPORT. What a step can do, said once: the cases of the Step operation and of the next operation. -/

namespace Sys2Proof.Machine

open Sys2Proof Host

theorem execBytes_ok {bytes rest : List Byte} {i : Instr} (h : decode bytes = .ok (i, rest)) (s : State) :
    execBytes bytes s = exec i s := by simp [execBytes, h]

theorem execBytes_error {bytes : List Byte} {r : Reject} (h : decode bytes = .error r) (s : State) :
    execBytes bytes s = execUnrecognized s := by simp [execBytes, h]

/-- Case 1 of Step (40_step_cycle.md R121). -/
theorem stepOp_vblank {s : State} (h : s.vblankWait = true) (now : Nat) (rnd : Byte) :
    stepOp now rnd s = .next (frameGate now s) := by simp [stepOp, h]

/-- Case 2 of Step (40_step_cycle.md R122). -/
theorem stepOp_key {s : State} (h : s.vblankWait = false) (hk : s.keyWait = true) (now : Nat) (rnd : Byte) :
    stepOp now rnd s = .next (frameGate now s) := by simp [stepOp, h, hk]

/-- Case 3 of Step (40_step_cycle.md R123). -/
theorem stepOp_normal {s : State} (h : s.vblankWait = false) (hk : s.keyWait = false) (now : Nat) (rnd : Byte) :
    stepOp now rnd s = execBytes s.fetchBytes { frameGate now s with rndIn := rnd } := by
  simp [stepOp, h, hk, runInstruction]
  rfl

theorem step_nil {s : State} (h : s.inputs = []) :
    step s = stepOp (Config.clock s.tick) (Config.randomByte s.tick) { s with tick := s.tick + 1 } := by
  simp [step, performNext, h]

theorem step_cons {s : State} {op : Op} {rest : List Op} (h : s.inputs = op :: rest) :
    step s = perform op { s with inputs := rest } := by
  simp [step, performNext, h]

end Sys2Proof.Machine
end

