-- ==== Sys2Proof/Laws/Transfer.lean ====
section
/-! SUPPORT. What the loops of FX55 and FX65 and the three writes of FX33 do, each said once. -/

namespace Sys2Proof.Machine

open Sys2Proof

theorem storeRegs_succ (s : State) (n : Nat) : storeRegs s (n + 1) = storeReg (storeRegs s n) n := by
  simp [storeRegs, List.range_succ]

theorem loadRegs_succ (s : State) (n : Nat) : loadRegs s (n + 1) = loadReg (loadRegs s n) n := by
  simp [loadRegs, List.range_succ]

/-- The loop of FX55 changes memory only. -/
theorem storeRegs_frame (s : State) (n : Nat) : storeRegs s n = { s with mem := (storeRegs s n).mem } := by
  induction n with
  | zero => rfl
  | succ n ih =>
    rw [storeRegs_succ, ih]
    rfl

/-- The loop of FX65 changes the registers only. -/
theorem loadRegs_frame (s : State) (n : Nat) : loadRegs s n = { s with v := (loadRegs s n).v } := by
  induction n with
  | zero => rfl
  | succ n ih =>
    rw [loadRegs_succ, ih]
    rfl

theorem storeRegs_effAddr (s : State) (n k : Nat) : (storeRegs s n).effAddr k = s.effAddr k := by
  rw [storeRegs_frame]; rfl

theorem storeRegs_getV (s : State) (n : Nat) (x : Nib) : (storeRegs s n).getV x = s.getV x := by
  rw [storeRegs_frame]; rfl

theorem wf_storeRegs {s : State} (h : s.mem.wf = true) (n : Nat) : (storeRegs s n).mem.wf = true := by
  induction n with
  | zero => exact h
  | succ n ih => rw [storeRegs_succ]; exact State.wf_memWrite ih

/-- After `n` iterations of FX55, the byte at `I + k` is register `k` for `k < n`, and every other byte is as before. -/
theorem storeRegs_memRead {s : State} (h : s.mem.wf = true) (n : Nat) (hn : n ≤ 16) :
    (∀ k < n, (storeRegs s n).memRead (s.effAddr k) = s.getV (loopReg k)) ∧
    ∀ a, (∀ k < n, maskAddr a ≠ s.effAddr k) → (storeRegs s n).memRead a = s.memRead a := by
  induction n with
  | zero => exact ⟨by simp, fun _ _ => rfl⟩
  | succ n ih =>
    obtain ⟨ih₁, ih₂⟩ := ih (by omega)
    have hr (a) : (storeRegs s (n + 1)).memRead a =
        if maskAddr a = s.effAddr n then s.getV (loopReg n) else (storeRegs s n).memRead a := by
      rw [storeRegs_succ, storeReg, State.memRead_memWrite (wf_storeRegs h n), storeRegs_effAddr, storeRegs_getV,
        State.maskAddr_effAddr]
    refine ⟨fun k hk => ?_, fun a ha => ?_⟩
    · rw [hr, State.maskAddr_effAddr]
      split
      · next e => rw [State.effAddr_inj s (by omega) (by omega) e]
      · next e => exact ih₁ k (by rcases Nat.lt_succ_iff_lt_or_eq.mp hk with h | rfl; exacts [h, absurd rfl e])
    · rw [hr, if_neg (ha n (by omega))]
      exact ih₂ a fun k hk => ha k (by omega)

theorem loopReg_toNat {n : Nat} (h : n < 16) : (loopReg n).toNat = n := by
  simp [loopReg]; omega

theorem loadRegs_memRead (s : State) (n a : Nat) : (loadRegs s n).memRead a = s.memRead a := by
  rw [loadRegs_frame]; rfl

theorem loadRegs_effAddr (s : State) (n k : Nat) : (loadRegs s n).effAddr k = s.effAddr k := by
  rw [loadRegs_frame]; rfl

/-- After `n` iterations of FX65, register `x` is the byte at `I + x` for `x < n`, and as before otherwise. -/
theorem loadRegs_getV (s : State) (n : Nat) (hn : n ≤ 16) (x : Nib) :
    (loadRegs s n).getV x = if x.toNat < n then s.memRead (s.effAddr x.toNat) else s.getV x := by
  induction n with
  | zero => simp; rfl
  | succ n ih =>
    rw [loadRegs_succ, loadReg, State.getV_setV, loadRegs_memRead, loadRegs_effAddr]
    by_cases hx : x = loopReg n
    · have : x.toNat = n := by rw [hx, loopReg_toNat (by omega)]
      simp [hx, loopReg_toNat (show n < 16 by omega)]
    · have : x.toNat ≠ n := fun e => hx (BitVec.eq_of_toNat_eq (by rw [loopReg_toNat (by omega), e]))
      rw [if_neg hx, ih (by omega)]
      by_cases h : x.toNat < n
      · simp [h, Nat.lt_succ_of_lt h]
      · have : ¬ x.toNat < n + 1 := by omega
        simp [h, this]

/-- The three writes of FX33 change memory only. -/
theorem storeDigits_frame (b : Byte) (s : State) : storeDigits b s = { s with mem := (storeDigits b s).mem } := rfl

/-- The three bytes of FX33, and every other byte as before (44_index_memory.md R183). -/
theorem storeDigits_memRead {s : State} (h : s.mem.wf = true) (b : Byte) (a : Nat) :
    (storeDigits b s).memRead a =
      if maskAddr a = s.effAddr 2 then ones b
      else if maskAddr a = s.effAddr 1 then tens b
      else if maskAddr a = s.effAddr 0 then hundreds b
      else s.memRead a := by
  have h₀ : (s.memWrite (s.effAddr 0) (hundreds b)).mem.wf = true := State.wf_memWrite h
  have h₁ : ((s.memWrite (s.effAddr 0) (hundreds b)).memWrite (s.effAddr 1) (tens b)).mem.wf = true :=
    State.wf_memWrite h₀
  unfold storeDigits
  rw [State.memRead_memWrite h₁, State.memRead_memWrite h₀, State.memRead_memWrite h]
  simp only [State.maskAddr_effAddr]

theorem wf_storeDigits {s : State} (h : s.mem.wf = true) (b : Byte) : (storeDigits b s).mem.wf = true :=
  State.wf_memWrite (State.wf_memWrite (State.wf_memWrite h))

end Sys2Proof.Machine
end

