-- ==== Sys2Proof/Tests/Slice0.lean ====
section
/-! SUPPORT. Tests, each with expected results from the spec (the vectors named are those of 95_test_vectors.md), and
for every statement with hypotheses a witness that meets them. -/

namespace Sys2Proof.Tests

open Sys2Proof Sys2Proof.Machine Host

/-! ### Helpers -/

/-- The reset state of the vectors: the state after `Reset(0)` with its deadline at 1, so that a Step at `now = 0` is
not due. -/
def start : State := { State.resetAt 0 with deadline := 1 }

/-- The same with the boundary already reached, so that a Step at `now = 0` is due. -/
def startDue : State := { State.resetAt 0 with deadline := 0 }

/-- The state with a word placed at pc, high byte first. -/
def place (w : Word) (s : State) : State := s.placeWord [w.extractLsb' 8 8, w.extractLsb' 0 8]

/-- One Step at `now = 0` of the state with `w` at pc reaches a next state that `p` accepts. -/
def stepRnd (rnd : Byte) (w : Word) (s : State) (p : State → Bool) : Bool :=
  match stepOp 0 rnd (place w s) with
  | .next t => p t
  | .fault _ => false
  | .refused _ => false

/-- The same for instructions that ignore `rnd`. -/
def steps (w : Word) (s : State) (p : State → Bool) : Bool := stepRnd 0xA5#8 w s p

/-- `exec` reaches a next state that `p` accepts. -/
def runs (i : Instr) (s : State) (p : State → Bool) : Bool :=
  match exec i s with
  | .next t => p t
  | .fault _ => false
  | .refused _ => false

/-- `step` reaches a next state that `p` accepts. -/
def stepsTo (s : State) (p : State → Bool) : Bool :=
  match step s with
  | .next t => p t
  | .fault _ => false
  | .refused _ => false

/-- Two bytes do not decode, for the reason given. -/
def rejects (w : Word) (r : Reject) : Bool :=
  match decodeWord w with
  | .ok _ => false
  | .error r' => r' == r

/-- A word decodes to the instruction given. -/
def decodes (w : Word) (i : Instr) : Bool :=
  match decodeWord w with
  | .ok j => j == i
  | .error _ => false

/-! ### WellFormed: the ill-formed terms are refused -/

theorem test_wellFormed_refuses_sys_0E0 : (Instr.sys 0x0E0#12).wellFormed = false := by decide
theorem test_wellFormed_refuses_sys_0EE : (Instr.sys 0x0EE#12).wellFormed = false := by decide
theorem test_wellFormed_accepts_sys_neighbours :
    (Instr.sys 0x0DF#12).wellFormed && (Instr.sys 0x0E1#12).wellFormed && (Instr.sys 0x0EF#12).wellFormed &&
      (Instr.sys 0xFFF#12).wellFormed = true := by decide

/-! ### Decoding: words written out bit by bit from the patterns of 30_encoding.md R93, group nibble first -/

theorem test_decode_flow :
    decodes 0b0000000011100000#16 .cls && decodes 0b0000000011101110#16 .ret &&
    decodes 0b0000000011101111#16 (.sys 0x0EF#12) && decodes 0b0001101000000000#16 (.jp 0xA00#12) &&
    decodes 0b0010101010111100#16 (.call 0xABC#12) && decodes 0b1011001100000000#16 (.jpV0 0x300#12) = true := by
  decide

theorem test_decode_skip :
    decodes 0b0011101000000010#16 (.seImm 0xA#4 0x02#8) && decodes 0b0100010100010001#16 (.sneImm 0x5#4 0x11#8) &&
    decodes 0b0101000100100000#16 (.seReg 0x1#4 0x2#4) && decodes 0b1001000100100000#16 (.sneReg 0x1#4 0x2#4) &&
    decodes 0b1110011110011110#16 (.skp 0x7#4) && decodes 0b1110000110100001#16 (.sknp 0x1#4) = true := by decide

theorem test_decode_load_alu :
    decodes 0b0110101000000010#16 (.ldImm 0xA#4 0x02#8) && decodes 0b0111000100000101#16 (.addImm 0x1#4 0x05#8) &&
    decodes 0b1000000100100000#16 (.ldReg 0x1#4 0x2#4) && decodes 0b1000000100100001#16 (.orReg 0x1#4 0x2#4) &&
    decodes 0b1000000100100010#16 (.andReg 0x1#4 0x2#4) && decodes 0b1000000100100011#16 (.xorReg 0x1#4 0x2#4) &&
    decodes 0b1000101010110100#16 (.addReg 0xA#4 0xB#4) && decodes 0b1000000000010101#16 (.subReg 0x0#4 0x1#4) &&
    decodes 0b1000000100100110#16 (.shr 0x1#4 0x2#4) && decodes 0b1000000000010111#16 (.subn 0x0#4 0x1#4) &&
    decodes 0b1000000100101110#16 (.shl 0x1#4 0x2#4) && decodes 0b1100001100001111#16 (.rnd 0x3#4 0x0F#8) = true := by
  decide

theorem test_decode_index_memory :
    decodes 0b1010001100000000#16 (.ldI 0x300#12) && decodes 0b1111001000011110#16 (.addI 0x2#4) &&
    decodes 0b1111000000101001#16 (.ldF 0x0#4) && decodes 0b1111000100110011#16 (.ldB 0x1#4) &&
    decodes 0b1111111001010101#16 (.ldMemVx 0xE#4) && decodes 0b1111000101100101#16 (.ldVxMem 0x1#4) = true := by
  decide

theorem test_decode_display_timer_key :
    decodes 0b1101000100101010#16 (.drw 0x1#4 0x2#4 0xA#4) && decodes 0b1111010000000111#16 (.ldVxDt 0x4#4) &&
    decodes 0b1111001100001010#16 (.ldVxK 0x3#4) && decodes 0b1111101000010101#16 (.ldDtVx 0xA#4) &&
    decodes 0b1111000000011000#16 (.ldStVx 0x0#4) = true := by decide

/-- Vectors F15 to F20 and the unrecognized rows of section 2.9. -/
theorem test_decode_rejects_by_name :
    rejects 0x5AB1#16 .group5 && rejects 0x8AB8#16 .group8 && rejects 0x9001#16 .group9 && rejects 0xE09F#16 .groupE &&
    rejects 0xF166#16 .groupF && rejects 0xFFFF#16 .groupF = true := by decide

/-- 30_encoding.md R90: a decoder always consumes two bytes; one byte is no instruction. -/
theorem test_decode_truncated :
    decode [0x6A#8] = .error .truncated ∧ decode [] = .error .truncated ∧
    decode [0x6A#8, 0x02#8, 0x3A#8] = .ok (.ldImm 0xA#4 0x02#8, [0x3A#8]) := by decide

/-- Section 2.9, byte order and the fields of 0xD12A. -/
theorem test_fields_of_D12A :
    wordOfBytes 0xD1#8 0x2A#8 = 0xD12A#16 ∧ groupOf 0xD12A#16 = 0xD#4 ∧ fieldX 0xD12A#16 = 0x1#4 ∧
    fieldY 0xD12A#16 = 0x2#4 ∧ fieldN 0xD12A#16 = 0xA#4 ∧ fieldNN 0xD12A#16 = 0x2A#8 ∧
    fieldNNN 0xD12A#16 = 0x12A#12 := by decide

theorem test_decodeTableWord :
    decodeTableWord 16 0x8AB4 = some (.addReg 0xA#4 0xB#4) ∧ decodeTableWord 16 0x00EE = some .ret ∧
    decodeTableWord 16 0x5AB1 = none := by decide

/-! ### The machine's step and its memory -/

/-- Vector A1, through `step` from the reset state itself. -/
theorem test_step_runs_placed_word :
    stepsTo (State.reset.withFetchWord 16 0x6A02) (fun t => t.getV 0xA#4 == 0x02#8 && t.pc == 0x0202#16) = true := by
  decide

/-- 41_flow.md R140: with nothing placed, the zeroed memory at 0x200 is a SYS. -/
theorem test_step_of_reset : stepsTo State.reset (fun t => t.err == 0b1000#4 && t.pc == 0x0202#16) = true := by decide

/-- Writing what an unlisted address reads as removes the entry (equal memories are equal data). -/
theorem test_memory_canonical :
    ((start.memWrite 0x300 0x55#8).memWrite 0x300 0x00#8).mem = [] ∧
    ((start.memWrite 0 0x00#8).memWrite 0 0xF0#8).mem = [] ∧
    (start.memWrite 0x1300 0x55#8).mem = [(0x300, 0x55#8)] ∧
    ((start.memWrite 0x301 0x02#8).memWrite 0x300 0x01#8).mem = [(0x300, 0x01#8), (0x301, 0x02#8)] := by decide

/-- Vector L2: the last font byte is at 79, and 0x1FF is zero. -/
theorem test_reset_memory :
    State.reset.memRead 0 = 0xF0#8 ∧ State.reset.memRead 79 = 0x80#8 ∧ State.reset.memRead 80 = 0x00#8 ∧
    State.reset.memRead 0x1FF = 0x00#8 := by decide

/-- Vectors F21 and F23: a fetch at 0xFFFE reads 0xFFE and 0xFFF; one at 0x0FFF takes its low byte from 0x000. -/
theorem test_fetch_wraps :
    steps 0x6A55#16 { start with pc := 0xFFFE#16 } (fun t => t.getV 0xA#4 == 0x55#8 && t.pc == 0x0000#16) &&
    steps 0x6CF0#16 { start with pc := 0x0FFF#16 } (fun t => t.getV 0xC#4 == 0xF0#8 && t.pc == 0x1001#16) = true := by
  decide

/-! ### Control flow -/

/-- Vectors F9 and F12. -/
theorem test_sys :
    steps 0x0000#16 start (fun t => t.err == 0b1000#4 && t.pc == 0x0202#16) &&
    steps 0x00FF#16 { start with err := 0b0100#4 } (fun t => t.err == 0b1100#4) = true := by decide

/-- Vector F6: the slot keeps its value. -/
theorem test_ret :
    steps 0x00EE#16 { start with pc := 0x0300#16, sp := 1, stack := start.stack.set 0 0x0200#16 }
      (fun t => t.pc == 0x0202#16 && t.sp == 0 && t.slot 0 == 0x0200#16 && t.err == 0#4) = true := by decide

/-- Vector F7. -/
theorem test_ret_underflow :
    steps 0x00EE#16 { start with pc := 0x0300#16 } (fun t => t.pc == 0x0302#16 && t.sp == 0 && t.err == 0b0010#4) = true
    := by decide

/-- Vector F1. -/
theorem test_jp : steps 0x1ABC#16 start (fun t => t.pc == 0x0ABC#16) = true := by decide

/-- Vector F4. -/
theorem test_call :
    steps 0x2300#16 { start with pc := 0x0FFE#16, sp := 15 }
      (fun t => t.slot 15 == 0x0FFE#16 && t.sp == 16 && t.pc == 0x0300#16 && t.err == 0#4) = true := by decide

/-- Vector F5. -/
theorem test_call_overflow :
    steps 0x2300#16 { start with sp := 16, stack := start.stack.set 15 0x0456#16 }
      (fun t => t.slot 15 == 0x0456#16 && t.sp == 16 && t.pc == 0x0300#16 && t.err == 0b0001#4) = true := by decide

/-- Vector F14: not masked. -/
theorem test_jpV0 : steps 0xBFFF#16 (start.setV 0x0#4 0xFF#8) (fun t => t.pc == 0x10FE#16) = true := by decide

/-- Vector F15: no skip. -/
theorem test_unrecognized :
    steps 0x5121#16 ((start.setV 0x1#4 0x07#8).setV 0x2#4 0x07#8) (fun t => t.err == 0b0100#4 && t.pc == 0x0202#16)
      = true := by decide

/-! ### Skips -/

/-- Vectors K1 and K2. -/
theorem test_seImm :
    steps 0x3A02#16 (start.setV 0xA#4 0x02#8) (fun t => t.pc == 0x0204#16) &&
    steps 0x3A02#16 (start.setV 0xA#4 0x03#8) (fun t => t.pc == 0x0202#16) = true := by decide

/-- Vector K17: a taken skip wraps. -/
theorem test_skip_wraps : steps 0x3000#16 { start with pc := 0xFFFE#16 } (fun t => t.pc == 0x0002#16) = true := by decide

/-- Vectors K3 and K4. -/
theorem test_sneImm :
    steps 0x4A02#16 (start.setV 0xA#4 0x03#8) (fun t => t.pc == 0x0204#16) &&
    steps 0x4A02#16 (start.setV 0xA#4 0x02#8) (fun t => t.pc == 0x0202#16) = true := by decide

/-- Vectors K5 and K6. -/
theorem test_seReg :
    steps 0x5120#16 ((start.setV 0x1#4 0x09#8).setV 0x2#4 0x09#8) (fun t => t.pc == 0x0204#16) &&
    steps 0x5120#16 ((start.setV 0x1#4 0x09#8).setV 0x2#4 0x08#8) (fun t => t.pc == 0x0202#16) = true := by decide

/-- Vectors K8 and K9. -/
theorem test_sneReg :
    steps 0x9120#16 ((start.setV 0x1#4 0x09#8).setV 0x2#4 0x08#8) (fun t => t.pc == 0x0204#16) &&
    steps 0x9120#16 ((start.setV 0x1#4 0x09#8).setV 0x2#4 0x09#8) (fun t => t.pc == 0x0202#16) = true := by decide

/-- Vectors K13 and K12: only the low nibble of Vx names the key. -/
theorem test_skp :
    steps 0xE19E#16 ((start.setV 0x1#4 0x17#8).setKey 0x7#4 true) (fun t => t.pc == 0x0204#16) &&
    steps 0xE19E#16 (start.setV 0x1#4 0x07#8) (fun t => t.pc == 0x0202#16) = true := by decide

/-- Vectors K14 and K16. -/
theorem test_sknp :
    steps 0xE1A1#16 (start.setV 0x1#4 0x07#8) (fun t => t.pc == 0x0204#16) &&
    steps 0xE1A1#16 ((start.setV 0x1#4 0xF7#8).setKey 0x7#4 true) (fun t => t.pc == 0x0202#16) = true := by decide

/-! ### Loads and arithmetic -/

/-- A state with V1, V2 and VF set. -/
def alu (v1 v2 f : Byte) : State := ((start.setV 0x1#4 v1).setV 0x2#4 v2).setV 0xF#4 f

/-- V1 and VF of the next state. -/
def leaves (w : Word) (s : State) (v1 f : Byte) : Bool :=
  steps w s (fun t => t.getV 0x1#4 == v1 && t.getV 0xF#4 == f && t.pc == 0x0202#16)

/-- Vector A2. -/
theorem test_ldImm : steps 0x6FFF#16 start (fun t => t.getV 0xF#4 == 0xFF#8) = true := by decide

/-- Vectors A3 and A5. -/
theorem test_addImm :
    steps 0x7A01#16 ((start.setV 0xA#4 0xFF#8).setV 0xF#4 0x05#8)
      (fun t => t.getV 0xA#4 == 0x00#8 && t.getV 0xF#4 == 0x05#8) &&
    steps 0x7F01#16 (start.setV 0xF#4 0xFF#8) (fun t => t.getV 0xF#4 == 0x00#8) = true := by decide

/-- Vector A6. -/
theorem test_ldReg : leaves 0x8120#16 (alu 0x01#8 0xAB#8 0x01#8) 0xAB#8 0x01#8 = true := by decide

/-- Vectors A7 and A8. -/
theorem test_orReg :
    leaves 0x8121#16 (alu 0xF0#8 0x0F#8 0x01#8) 0xFF#8 0x00#8 &&
    leaves 0x8F21#16 (alu 0x33#8 0x0F#8 0xF0#8) 0x33#8 0x00#8 = true := by decide

/-- Vector A10. -/
theorem test_andReg : leaves 0x8122#16 (alu 0xFC#8 0x3F#8 0x01#8) 0x3C#8 0x00#8 = true := by decide

/-- Vectors A11 and A12. -/
theorem test_xorReg :
    leaves 0x8123#16 (alu 0xFF#8 0x0F#8 0x01#8) 0xF0#8 0x00#8 &&
    leaves 0x8113#16 (alu 0xA5#8 0x0F#8 0x01#8) 0x00#8 0x00#8 = true := by decide

/-- Vectors A15 and A16. -/
theorem test_addReg :
    leaves 0x8124#16 (alu 0xFF#8 0x01#8 0x00#8) 0x00#8 0x01#8 &&
    leaves 0x8124#16 (alu 0xFE#8 0x01#8 0x01#8) 0xFF#8 0x00#8 = true := by decide

/-- Vectors A18 and A19: X = F and Y = F. -/
theorem test_addReg_with_VF :
    leaves 0x8F24#16 (alu 0x33#8 0x02#8 0xFF#8) 0x33#8 0x01#8 &&
    leaves 0x81F4#16 (alu 0xFF#8 0x00#8 0x01#8) 0x00#8 0x01#8 = true := by decide

/-- Vectors A22 and A23. -/
theorem test_subReg :
    leaves 0x8125#16 (alu 0x05#8 0x05#8 0x00#8) 0x00#8 0x01#8 &&
    leaves 0x8125#16 (alu 0x00#8 0x01#8 0x01#8) 0xFF#8 0x00#8 = true := by decide

/-- Vectors A30 and A35. -/
theorem test_subn :
    leaves 0x8127#16 (alu 0x03#8 0x05#8 0x00#8) 0x02#8 0x01#8 &&
    leaves 0x8127#16 (alu 0x05#8 0x03#8 0x01#8) 0xFE#8 0x00#8 = true := by decide

/-- Vectors A25 and A28. -/
theorem test_shr :
    leaves 0x8126#16 (alu 0xFF#8 0x83#8 0x00#8) 0x41#8 0x01#8 &&
    leaves 0x8F26#16 (alu 0x33#8 0x83#8 0x01#8) 0x33#8 0x00#8 = true := by decide

/-- Vectors A31 and A33. -/
theorem test_shl :
    leaves 0x812E#16 (alu 0x00#8 0x81#8 0x00#8) 0x02#8 0x01#8 &&
    leaves 0x8F2E#16 (alu 0x33#8 0x81#8 0x00#8) 0x33#8 0x02#8 = true := by decide

/-- Vector A37. -/
theorem test_rnd :
    stepRnd 0xA7#8 0xC10F#16 start (fun t => t.getV 0x1#4 == 0x07#8 && t.pc == 0x0202#16) = true := by decide

/-! ### The address register and memory -/

/-- Vector M2. -/
theorem test_ldI : steps 0xAFFF#16 start (fun t => t.i == 0x0FFF#16 && t.pc == 0x0202#16) = true := by decide

/-- Vector M5. -/
theorem test_addI :
    steps 0xF21E#16 ((start.setV 0x2#4 0xFF#8).setI 0x0FF0#16) (fun t => t.i == 0x00EF#16 && t.getV 0xF#4 == 0x00#8)
      = true := by decide

/-- Vector M7. -/
theorem test_ldF : steps 0xF029#16 (start.setV 0x0#4 0x1F#8) (fun t => t.i == 0x004B#16) = true := by decide

/-- Vector M8, the source's example. -/
theorem test_ldB :
    steps 0xF133#16 ((start.setV 0x1#4 0xEA#8).setI 0x0300#16)
      (fun t => t.memRead 0x300 == 0x02#8 && t.memRead 0x301 == 0x03#8 && t.memRead 0x302 == 0x04#8) = true := by decide

/-- Vector M11: the ones digit goes to mem[0x000]. -/
theorem test_ldB_wraps :
    steps 0xF133#16 ((start.setV 0x1#4 0xC7#8).setI 0x0FFE#16)
      (fun t => t.memRead 0xFFE == 0x01#8 && t.memRead 0xFFF == 0x09#8 && t.memRead 0x000 == 0x09#8) = true := by decide

/-- Vector M14. -/
theorem test_ldMemVx :
    steps 0xF155#16 (((start.setV 0x0#4 0xAA#8).setV 0x1#4 0xBB#8).setI 0x0FFF#16)
      (fun t => t.memRead 0xFFF == 0xAA#8 && t.memRead 0x000 == 0xBB#8 && t.memRead 0x001 == 0x90#8 &&
        t.i == 0x0FFF#16) = true := by decide

/-- Vectors M15 and M18: the other setting of LOAD_STORE_ADVANCES_I. -/
theorem test_transfer_that_advances_I :
    (storeTransfer true 0x2#4 (start.setI 0x0300#16)).i = 0x0303#16 ∧
    (loadTransfer true 0x2#4 (start.setI 0x0300#16)).i = 0x0303#16 := by decide

/-- Vector M17, in part: the first, second, fifteenth and sixteenth byte of the font into V0, V1, VE and VF. -/
theorem test_ldVxMem :
    steps 0xFF65#16 start
      (fun t => t.getV 0x0#4 == 0xF0#8 && t.getV 0x1#4 == 0x90#8 && t.getV 0xE#4 == 0xF0#8 && t.getV 0xF#4 == 0xF0#8 &&
        t.i == 0x0000#16) = true := by decide

/-- Vector M16: V3 is not loaded. -/
theorem test_ldVxMem_stops_at_X :
    steps 0xF265#16 ((start.setI 0x0300#16).memWrite 0x303 0x09#8)
      (fun t => t.getV 0x3#4 == 0x00#8 && t.getV 0x2#4 == 0x00#8) = true := by decide

/-! ### The display -/

/-- Vector G1. -/
theorem test_cls :
    steps 0x00E0#16 { start with disp := ((start.disp.toggle 0 0).toggle 10 5).toggle 63 31 }
      (fun t => !t.disp.cell 0 0 && !t.disp.cell 10 5 && !t.disp.cell 63 31 && !t.vblankWait) = true := by decide

/-- Vector G4: glyph 1 at (70 mod 64, 40 mod 32) = (6, 8). -/
theorem test_drw :
    steps 0xD125#16 (((start.setV 0x1#4 0x46#8).setV 0x2#4 0x28#8).setI 0x0005#16)
      (fun t => t.disp.cell 8 8 && !t.disp.cell 7 8 && t.disp.cell 7 9 && t.disp.cell 8 9 && t.disp.cell 7 12 &&
        t.disp.cell 9 12 && t.getV 0xF#4 == 0x00#8 && t.vblankWait && t.pc == 0x0202#16) = true := by decide

/-- Vectors G8 and G10: the collision of a partial overlap, and X = F read before VF is cleared. -/
theorem test_drw_collision_and_VF :
    steps 0xD121#16 { (start.setI 0x0300#16).memWrite 0x300 0xC0#8 with
        disp := (start.disp.toggle 1 0).toggle 2 0 }
      (fun t => t.disp.cell 0 0 && !t.disp.cell 1 0 && t.disp.cell 2 0 && t.getV 0xF#4 == 0x01#8) &&
    steps 0xDF11#16 ((((start.setV 0xF#4 0x05#8).setV 0x1#4 0x02#8).setI 0x0300#16).memWrite 0x300 0x80#8)
      (fun t => t.disp.cell 5 2 && t.getV 0xF#4 == 0x00#8) = true := by decide

/-- Vectors G5 and G6: the edges clip. -/
theorem test_drw_clips :
    steps 0xD121#16 (((start.setV 0x1#4 0x3C#8).setI 0x0300#16).memWrite 0x300 0xFF#8)
      (fun t => t.disp.cell 60 0 && t.disp.cell 63 0 && !t.disp.cell 0 0 && !t.disp.cell 0 1) &&
    steps 0xD122#16 ((((start.setV 0x2#4 0x1F#8).setI 0x0300#16).memWrite 0x300 0x80#8).memWrite 0x301 0x80#8)
      (fun t => t.disp.cell 0 31 && !t.disp.cell 0 0) = true := by decide

/-! ### Timers, the key wait, the frame clock and the keypad -/

/-- Vectors T1 and T2. -/
theorem test_ldVxDt :
    steps 0xF407#16 { start with dt := 3#8 } (fun t => t.getV 0x4#4 == 0x03#8 && t.dt == 3#8) &&
    steps 0xF407#16 { startDue with dt := 3#8 } (fun t => t.getV 0x4#4 == 0x02#8 && t.dt == 2#8) = true := by decide

/-- Vectors T3 and T4. -/
theorem test_ldDtVx :
    steps 0xFA15#16 (start.setV 0xA#4 0x05#8) (fun t => t.dt == 5#8) &&
    steps 0xFA15#16 { startDue.setV 0xA#4 0x09#8 with dt := 3#8, st := 1#8 } (fun t => t.dt == 9#8 && t.st == 0#8)
      = true := by decide

/-- Vector T5. -/
theorem test_ldStVx : steps 0xF018#16 (start.setV 0x0#4 0x1E#8) (fun t => t.st == 30#8 && t.pc == 0x0202#16) = true := by
  decide

/-- Vectors T6 and T7. -/
theorem test_ldVxK :
    steps 0xF30A#16 start (fun t => t.keyWait && t.keyReg == 0x3#4 && t.pc == 0x0200#16) &&
    steps 0xF30A#16 (press 0x7#4 start) (fun t => t.keyWait && t.pc == 0x0200#16 && t.getV 0x3#4 == 0x00#8) = true := by
  decide

/-- Vector E8: the key delivered is the last pressed (5), not the one released (3). -/
theorem test_release_delivers_last_key :
    steps 0xF30A#16 start (fun t =>
      let u := release 0x3#4 (press 0x5#4 (press 0x3#4 t))
      u.getV 0x3#4 == 0x05#8 && u.pc == 0x0202#16 && !u.keyWait && !u.key 0x3#4 && u.key 0x5#4) = true := by decide

/-- Vector E11: outside a wait key events touch only keys and last_key. -/
theorem test_key_events_outside_a_wait :
    release 0xA#4 (press 0xA#4 start) = { start with lastKey := 0xA#4 } ∧ release 0x2#4 start = start := by decide

/-- Vectors E3 and E4: a due Step in either wait ticks the timers and executes nothing. -/
theorem test_waiting_steps :
    steps 0x6A01#16 { startDue with vblankWait := true, dt := 4#8 }
      (fun t => t.dt == 3#8 && !t.vblankWait && t.pc == 0x0200#16 && t.getV 0xA#4 == 0x00#8) &&
    steps 0x6A01#16 { startDue with keyWait := true, dt := 3#8 }
      (fun t => t.dt == 2#8 && t.keyWait && t.pc == 0x0200#16 && t.getV 0xA#4 == 0x00#8) = true := by decide

/-- Vectors E16 and E18: the deadline after a gate, with FRAME_PERIOD = 100. -/
theorem test_catchUp : catchUp 100 1100 1100 = 1200 ∧ catchUp 100 1450 1200 = 1500 ∧ catchUp 100 1500 1500 = 1600 := by
  decide

/-- Vector E1, its last Steps: a timer at 1 goes to 0 and stays there. -/
theorem test_timer_stops_at_zero :
    timerAfterGate true 1#8 = 0#8 ∧ timerAfterGate true 0#8 = 0#8 ∧ timerAfterGate false 5#8 = 5#8 := by decide

/-- Vector L2. -/
theorem test_load :
    (load [0x6A, 0x02, 0x3A, 0x02, 0x1A, 0x00] 0 (start.setV 0x3#4 0x09#8)).2 = true ∧
    (load [0x6A, 0x02, 0x3A, 0x02, 0x1A, 0x00] 0 (start.setV 0x3#4 0x09#8)).1.memRead 0x204 = 0x1A#8 ∧
    (load [0x6A, 0x02, 0x3A, 0x02, 0x1A, 0x00] 0 (start.setV 0x3#4 0x09#8)).1.memRead 0x206 = 0x00#8 ∧
    (load [0x6A, 0x02, 0x3A, 0x02, 0x1A, 0x00] 0 (start.setV 0x3#4 0x09#8)).1.getV 0x3#4 = 0x00#8 := by decide

/-- Vector L1, in part. -/
theorem test_reset :
    let u := resetOp 0 { (start.setV 0x3#4 0x09#8).memWrite 0 0x00#8 with
      sp := 4, keyWait := true, err := 0b1111#4, pc := 0x0ABC#16 }
    u.getV 0x3#4 = 0x00#8 ∧ u.memRead 0 = 0xF0#8 ∧ u.sp = 0 ∧ u.keyWait = false ∧ u.err = 0#4 ∧ u.pc = 0x0200#16 := by
  decide

/-! ### Witnesses: for each statement with hypotheses, inputs that meet them, at the boundary of each clause -/

/-- A blank stack pointer at `n`. -/
def withSp (n : Fin 17) : State := { start with sp := n }

/-- The longest ROM, and one byte more (vectors L3 and L4). -/
theorem witness_LoadPlacesTheRom :
    (List.replicate 3584 0xAB#8).length ≤ 3584 ∧ 3583 < (List.replicate 3584 0xAB#8).length ∧
    3584 < (List.replicate 3585 0xAB#8).length := by
  rw [List.length_replicate, List.length_replicate]
  omega

theorem witness_DecodeOfEncodeIsTheInstruction :
    (Instr.sys 0x0E1#12).wellFormed = true ∧ (Instr.cls).wellFormed = true ∧ (Instr.drw 0xF 0xF 0xF).wellFormed = true := by
  decide

theorem witness_EncodeOfDecodeIsTheBytes :
    decode [0x00#8, 0xEE#8, 0x12#8] = .ok (.ret, [0x12#8]) ∧ decode [0x00#8, 0xEF#8] = .ok (.sys 0x0EF#12, []) := by
  decide

/-- A word of one row; the two words that lie in two rows, and the words beside them. -/
theorem witness_WordSelectsItsOpcodeRow :
    decodeWord 0x8AB4#16 = .ok (.addReg 0xA#4 0xB#4) ∧
    0x8AB4#16 &&& (Instr.addReg 0 0).maskMatch.1 = (Instr.addReg 0 0).maskMatch.2 ∧
    0x00E0#16 &&& (Instr.sys 0).maskMatch.1 = (Instr.sys 0).maskMatch.2 ∧ decodeWord 0x00E0#16 = .ok .cls ∧
    0x00EE#16 &&& (Instr.sys 0).maskMatch.1 = (Instr.sys 0).maskMatch.2 ∧ decodeWord 0x00EE#16 = .ok .ret ∧
    0x00EF#16 &&& (Instr.sys 0).maskMatch.1 = (Instr.sys 0).maskMatch.2 := by decide

/-- The first and last unrecognized words of each group, and the recognized words beside them. -/
theorem witness_UnrecognizedSpaceIsExact :
    rejects 0x5001#16 .group5 && rejects 0x5FFF#16 .group5 && rejects 0x8008#16 .group8 && rejects 0x8FFD#16 .group8 &&
    rejects 0x8FFF#16 .group8 && rejects 0x9001#16 .group9 && rejects 0x9FFF#16 .group9 && rejects 0xE09D#16 .groupE &&
    rejects 0xEFA2#16 .groupE && rejects 0xF006#16 .groupF && rejects 0xFF66#16 .groupF &&
    decodes 0x5FF0#16 (.seReg 0xF 0xF) && decodes 0x8007#16 (.subn 0 0) && decodes 0x8FFE#16 (.shl 0xF 0xF) &&
    decodes 0x9FF0#16 (.sneReg 0xF 0xF) = true := by decide

/-- All three forms of the step: none pending, a Step pending, and the Step itself. The other pending operations are in
`test_step_performs_pending`, the two waits in the next two witnesses. -/
theorem witness_StepRunsTheDecodedInstruction :
    (place 0x6A02#16 start).engine = .normal ∧ decode (place 0x6A02#16 start).fetchBytes = .ok (.ldImm 0xA 0x02, []) ∧
    (place 0x6A02#16 start).inputs = [] ∧
    ({ place 0x6A02#16 start with inputs := [.step 7 0x55, .press 3] } : State).inputs = .step 7 0x55 :: [.press 3] ∧
    decode ({ place 0x6A02#16 start with inputs := [.step 7 0x55, .press 3] } : State).fetchBytes
      = .ok (.ldImm 0xA 0x02, []) := by decide

/-- Each pending operation other than a Step has its effect at the next step, and is gone from the list after it; a
pending Press reaches a core in the key wait, and a pending Release ends that wait (47_frame_and_key_events.md R216, R217). -/
theorem test_step_performs_pending :
    stepsTo { start with inputs := [.press 0x7, .release 0x7], keyWait := true, keyReg := 0x3 }
      (fun t => t.key 0x7 && t.lastKey == 0x7#4 && t.keyWait && t.inputs == [.release 0x7]) &&
    stepsTo { start with inputs := [.release 0x7], keyWait := true, keyReg := 0x3, lastKey := 0x7 }
      (fun t => t.getV 0x3 == 0x07#8 && !t.keyWait && t.pc == 0x0202#16 && t.inputs == []) &&
    stepsTo { start with inputs := [.reset 0], pc := 0x0ABC#16 } (fun t => t.pc == 0x0200#16 && t.inputs == []) &&
    stepsTo { start with inputs := [.load [0x6A] 0] } (fun t => t.memRead 0x200 == 0x6A#8 && t.inputs == []) &&
    stepsTo { startDue with inputs := [.vblankCheck 0], vblankWait := true, dt := 5 }
      (fun t => t.dt == 4#8 && !t.vblankWait && t.pc == 0x0200#16 && t.inputs == []) = true := by decide

/-- One before the deadline, and at it. -/
theorem witness_AwaitingVblankStepOnlyGates :
    ({ start with vblankWait := true } : State).engine = .awaitingVblank ∧ 0 < start.deadline ∧ start.deadline ≤ 1 := by
  decide

theorem witness_AwaitingKeyStepOnlyGates :
    ({ start with keyWait := true, keyReg := 0x3 } : State).engine = .awaitingKey 0x3 ∧ 0 < start.deadline ∧
    start.deadline ≤ 1 := by decide

theorem witness_UnrecognizedWordIsAFlaggedNoOp :
    decode [0x51#8, 0x21#8] = .error .group5 ∧ (place 0x5121#16 start).engine = .normal ∧
    decode (place 0x5121#16 start).fetchBytes = .error .group5 := by decide

theorem witness_FrameGateObservesTheBoundary : 0 < start.deadline ∧ start.deadline ≤ 1 := by decide

/-- A gate that is due, and a later gate before the new deadline. -/
theorem witness_SecondGateIsIdle : 1 < (frameGate 1 start).deadline :=
  (frameGate_due (s := start) (now := 1) (by decide)).2.2.2.2.1

/-- The first gate after a reset at 0, at the deadline itself. -/
theorem witness_DueGatesNeedTime : (gates [] (resetOp 0 start)).due Config.framePeriod = true :=
  (State.due_iff _ _).mpr (Nat.le_of_eq (Nat.zero_add _))

theorem witness_PressRecordsTheKey : (0x7#4 : Nib) = 0x7#4 ∧ (0x6#4 : Nib) ≠ 0x7#4 := by decide

theorem witness_ReleaseEndsTheKeyWait :
    ({ start with keyWait := true, keyReg := 0x3 } : State).keyWait = true ∧ start.keyWait = false := by decide

theorem witness_SysIsAFlaggedNoOp :
    (0x000#12 ≠ 0x0E0#12 ∧ 0x000#12 ≠ 0x0EE#12) ∧ (0x0DF#12 ≠ 0x0E0#12 ∧ 0x0DF#12 ≠ 0x0EE#12) ∧
    (0x0E1#12 ≠ 0x0E0#12 ∧ 0x0E1#12 ≠ 0x0EE#12) ∧ (0xFFF#12 ≠ 0x0E0#12 ∧ 0xFFF#12 ≠ 0x0EE#12) := by decide

theorem witness_RetPopsOrFlagsUnderflow :
    0 < (withSp 1).sp.val ∧ 0 < (withSp 16).sp.val ∧ (withSp 0).sp.val = 0 := by decide

theorem witness_CallPushesOrFlagsOverflow :
    (withSp 0).sp.val < 16 ∧ (withSp 15).sp.val < 16 ∧ (withSp 16).sp.val = 16 := by decide

theorem witness_RetReturnsBehindTheCall : (withSp 0).sp.val < 16 ∧ (withSp 15).sp.val < 16 := by decide

theorem witness_SkipComparesImmediate :
    (start.setV 0xA 0x02).getV 0xA = 0x02#8 ∧ (start.setV 0xA 0x03).getV 0xA ≠ 0x02#8 := by decide

theorem witness_SkipComparesRegisters :
    start.getV 0x1 = start.getV 0x2 ∧ (start.setV 0x1 0x09).getV 0x1 ≠ (start.setV 0x1 0x09).getV 0x2 := by decide

theorem witness_SkipTestsTheKey :
    (0x7#4 : Nib).toNat = ((start.setV 0x1 0x17).getV 0x1).toNat % 16 ∧
    (0xF#4 : Nib).toNat = ((start.setV 0x1 0xFF).getV 0x1).toNat % 16 ∧
    ((start.setV 0x1 0x17).setKey 0x7 true).key 0x7 = true ∧ (start.setV 0x1 0x17).key 0x7 = false := by decide

/-- X = E and X = F. -/
theorem witness_BitwiseClearsVF : (0xE#4 : Nib) ≠ vf ∧ (0xF#4 : Nib) = vf := by decide

/-- X = E and X = F; the sums 255 and 256. -/
theorem witness_AddSetsCarry :
    (0xE#4 : Nib) ≠ vf ∧ (0xF#4 : Nib) = vf ∧
    ¬ 255 < ((alu 0xFE 0x01 0).getV 0x1).toNat + ((alu 0xFE 0x01 0).getV 0x2).toNat ∧
    255 < ((alu 0xFF 0x01 0).getV 0x1).toNat + ((alu 0xFF 0x01 0).getV 0x2).toNat := by decide

/-- X = E and X = F; equal operands, and a subtrahend one larger. -/
theorem witness_SubtractSetsNoBorrow :
    (0xE#4 : Nib) ≠ vf ∧ (0xF#4 : Nib) = vf ∧
    ((alu 5 5 0).getV 0x2).toNat ≤ ((alu 5 5 0).getV 0x1).toNat ∧
    ¬ ((alu 0 1 0).getV 0x2).toNat ≤ ((alu 0 1 0).getV 0x1).toNat := by decide

/-- X = E and X = F. -/
theorem witness_ShiftsCopyVyFirst : (0xE#4 : Nib) ≠ vf ∧ (0xF#4 : Nib) = vf := by decide

theorem witness_RandomIsMaskedByNN :
    (place 0xC10F#16 start).engine = .normal ∧ decode (place 0xC10F#16 start).fetchBytes = .ok (.rnd 0x1 0x0F, []) := by
  decide

/-- A state whose memory lists two bytes. -/
def listed : State := (start.memWrite 0x300 0x01#8).memWrite 0 0x02#8

theorem witness_LoadBStoresTheDigits : listed.mem.wf = true ∧ listed.mem ≠ [] := by decide

/-- The first and the last register stored, for the least and the greatest X. -/
theorem witness_StoreRegistersToMemory :
    listed.mem.wf = true ∧ listed.mem ≠ [] ∧ (0x0#4 : Nib).toNat ≤ (0x0#4 : Nib).toNat ∧
    (0xF#4 : Nib).toNat ≤ (0xF#4 : Nib).toNat ∧ ¬ (0x1#4 : Nib).toNat ≤ (0x0#4 : Nib).toNat := by decide

theorem witness_LoadRegistersFromMemory :
    (0x2#4 : Nib).toNat ≤ (0x2#4 : Nib).toNat ∧ ¬ (0x3#4 : Nib).toNat ≤ (0x2#4 : Nib).toNat := by decide

/-- The bytes stored land on each of the two bytes of the next fetch (pc 0x0200 goes to 0x0202). -/
theorem witness_StoredBytesAreFetchedAtOnce :
    (start.setI 0x0202#16).mem.wf = true ∧ (0x1#4 : Nib).toNat ≤ (0x1#4 : Nib).toNat ∧
    runs (.ldMemVx 0x1) (start.setI 0x0202#16) (fun t =>
      (start.setI 0x0202#16).effAddr (0x0#4 : Nib).toNat == maskAddr t.pc.toNat &&
      (start.setI 0x0202#16).effAddr (0x1#4 : Nib).toNat == maskAddr (t.pc.toNat + 1)) = true := by decide

/-- Vector G8: a set sprite bit on a cell that is 1, a set bit on a cell that is 0, and cells outside the sprite. -/
theorem witness_DrawTogglesSpriteCells :
    let s := { (start.setI 0x0300#16).memWrite 0x300 0xC0#8 with disp := start.disp.toggle 1 0 }
    SpriteAt s 0x1 0x2 0x1 0 0 ∧ s.disp.cell 0 0 = false ∧ SpriteAt s 0x1 0x2 0x1 1 0 ∧ s.disp.cell 1 0 = true ∧
    ¬ SpriteAt s 0x1 0x2 0x1 2 0 ∧ ¬ SpriteAt s 0x1 0x2 0x1 0 1 ∧ ¬ SpriteAt s 0x1 0x2 0x0 0 0 := by
  unfold SpriteAt
  decide

/-- The last visible cell, and the first clipped ones. -/
theorem witness_SpriteAt_edges :
    let s := (((start.setV 0x1 0x3F#8).setV 0x2 0x1F#8).setI 0x0300#16).memWrite 0x300 0xFF#8
    SpriteAt s 0x1 0x2 0x1 63 31 ∧ ¬ SpriteAt s 0x1 0x2 0x1 64 31 ∧ ¬ SpriteAt s 0x1 0x2 0x1 63 32 := by
  unfold SpriteAt
  decide

/-- The greatest X and the least Y that are not VF, and a start of the second draw that is not where the first ends: its
latch clear, another timer value. -/
theorem witness_DrawTwiceRestoresTheDisplay :
    (0xE#4 : Nib) ≠ vf ∧ (0x0#4 : Nib) ≠ vf ∧ ∃ t t' : State, exec (.drw 0xE 0x0 0x1) start = .next t ∧ t' ≠ t ∧
      SameDraw 0xE 0x0 start t' ∧ ∀ cx cy, t'.disp.cell cx cy = t.disp.cell cx cy :=
  ⟨by decide, by decide, _, { start with disp := (drawSprite start 0 0 1).1, dt := 5 }, rfl,
    fun h => absurd (congrArg State.vblankWait h) (by decide), ⟨rfl, rfl, rfl, fun _ => rfl⟩, fun _ _ => rfl⟩

theorem witness_FrameBufferIsRowMajor : 63 < 64 ∧ 31 < 32 ∧ 31 * 64 + 63 = 2047 := by decide

theorem witness_TimersMoveToAndFromVx :
    (place 0xF407#16 startDue).engine = .normal ∧ (place 0xF407#16 startDue).deadline ≤ 0 ∧
    decode (place 0xF407#16 startDue).fetchBytes = .ok (.ldVxDt 0x4, []) ∧
    (place 0xF415#16 startDue).engine = .normal ∧ (place 0xF415#16 startDue).deadline ≤ 0 ∧
    decode (place 0xF415#16 startDue).fetchBytes = .ok (.ldDtVx 0x4, []) ∧
    (place 0xF418#16 startDue).engine = .normal ∧ (place 0xF418#16 startDue).deadline ≤ 0 ∧
    decode (place 0xF418#16 startDue).fetchBytes = .ok (.ldStVx 0x4, []) := by decide

theorem witness_WaitForKeyParksTheCore : start.vblankWait = false := by decide

/-- From a state that meets the invariant, with memory listed and a timer running, a step answers a next state. -/
theorem witness_StepKeepsTheInvariant :
    let s := { (place 0xF155#16 start).setI 0x0FFF#16 with dt := 5#8 }
    s.mem.wf = true ∧ s.i.toNat ≤ 0x0FFF ∧ ¬ (s.keyWait = true ∧ s.vblankWait = true) ∧
    stepsTo s (fun _ => true) = true := by decide

/-- Each clause's antecedent: an instruction that changes that part of the state. -/
theorem witness_OnlyTheListedInstructionsWrite :
    runs (.ldImm 0xA 0x02) start (fun t => t.v != start.v) && runs (.shr 0x1 0x2) (alu 0 3 0) (fun t => t.v != (alu 0 3 0).v) &&
    runs (.ldVxMem 0x0) start (fun t => t.v != start.v) &&
    runs (.ldI 0x300#12) start (fun t => t.i != start.i) && runs (.ldF 0x1) (start.setV 0x1 5) (fun t => t.i != start.i) &&
    runs .ret (withSp 16) (fun t => t.sp != (withSp 16).sp) && runs (.call 0x300#12) start (fun t => t.stack != start.stack &&
      t.sp != start.sp) && runs (.ldDtVx 0x1) (start.setV 0x1 5) (fun t => t.dt != start.dt) &&
    runs (.ldStVx 0x1) (start.setV 0x1 5) (fun t => t.st != start.st) &&
    runs (.ldB 0x1) ((start.setV 0x1 5).setI 0x0300#16) (fun t => t.mem != start.mem) &&
    runs (.ldVxK 0x1) start (fun t => t.keyWait != start.keyWait && t.keyReg != start.keyReg) &&
    runs (.drw 0x1 0x2 0x1) start (fun t => t.vblankWait != start.vblankWait && t.disp.cell 0 0 != start.disp.cell 0 0) &&
    runs (.sys 0#12) start (fun t => t.err != start.err) = true := by decide

theorem witness_OnlyFlagWritersChangeVF :
    runs (.addReg 0x1 0x2) (alu 0xFF 0x01 0) (fun t => t.getV vf != (alu 0xFF 0x01 0).getV vf) &&
    runs (.ldImm 0xF 0x05) start (fun t => t.getV vf != start.getV vf) &&
    runs (.ldVxMem 0xF) start (fun t => t.getV vf != start.getV vf) = true := by decide

/-- One instruction of each clause reaches a next state. -/
theorem witness_PcAfterEachInstruction :
    runs (.jp 0xABC) start (fun t => t.pc == 0x0ABC#16) && runs (.jpV0 0x300) start (fun t => t.pc == 0x0300#16) &&
    runs .ret (withSp 1) (fun t => t.pc == 0x0002#16) && runs (.ldVxK 0x3) start (fun t => t.pc == 0x0200#16) &&
    runs (.seImm 0x1 0x00) start (fun t => t.pc == 0x0204#16) && runs .ret start (fun t => t.pc == 0x0202#16) = true := by
  decide

theorem witness_ErrorFlagsAreSticky :
    stepsTo { start with err := 0b0110#4 } (fun _ => true) = true ∧ (start.inputs = []) ∧
    ({ start with err := 0b0110#4 } : State).err.getLsbD 1 = true ∧
    stepsTo { start with err := 0b0110#4, inputs := [.press 0x3] } (fun _ => true) = true := by decide

theorem witness_ErrorFlagsAreNeverRead :
    stepsTo { place 0x2300#16 (withSp 16) with err := 0b0110#4 } (fun _ => true) = true := by decide

/-- Due in both clocks, and due in neither. -/
theorem witness_StepDependsOnTimeOnlyThroughDue :
    decide (startDue.deadline ≤ 0) = decide (700 ≤ 701) ∧ decide (start.deadline ≤ 0) = decide (700 ≤ 699) ∧
    steps 0xF407#16 startDue (fun _ => true) = true ∧ steps 0xF407#16 start (fun _ => true) = true := by decide

/-- Vector F2: 0x1200 at 0x200. -/
theorem witness_JumpToSelfIsForever :
    (place 0x1200#16 start).Finished ∧ (place 0x1200#16 start).engine = .normal :=
  ⟨⟨0x200#12, by decide, by decide⟩, by decide⟩

/-- Vector E4. -/
theorem witness_DrawWaitsForTheFrame :
    (place 0xD121#16 start).engine = .normal ∧ decode (place 0xD121#16 start).fetchBytes = .ok (.drw 0x1 0x2 0x1, []) ∧
    steps 0xD121#16 start (fun t => decide (0 < t.deadline) && decide (t.deadline ≤ 1)) = true := by decide

/-- 79 and 80 are the last font byte and the first zero byte; 4095 is the last address. -/
theorem witness_MemoryResetWritesTheFont : 79 < 80 ∧ 80 ≤ 80 ∧ 4095 ≤ 4095 ∧
    (resetOp 0 start).memRead 79 = 0x80#8 ∧ (resetOp 0 start).memRead 80 = 0#8 ∧
    (resetOp 0 start).memRead 4095 = 0#8 := by decide

end Sys2Proof.Tests
end

namespace Sys2Proof.Machine

open Sys2Proof

/-! ### Frames of the instructions that branch or loop -/

/-- The push of a CALL changes the stack and ERR only (41_flow.md R143). -/
theorem pushCall_frame (s : State) :
    pushCall s = { s with stack := (pushCall s).stack, sp := (pushCall s).sp, err := (pushCall s).err } := by
  unfold pushCall
  split <;> rfl

/-- RET changes sp, pc and ERR only (41_flow.md R141). -/
theorem execRet_frame {s t : State} (e : execRet s = .next t) :
    t = { s with sp := t.sp, pc := t.pc, err := t.err } := by
  unfold execRet at e
  split at e <;> cases e <;> rfl

/-- FX55 changes memory, I and pc only (44_index_memory.md R184). -/
theorem storeTransfer_frame (advances : Bool) (x : Nib) (s : State) :
    storeTransfer advances x s =
      { s with
        mem := (storeRegs s (x.toNat + 1)).mem
        i := indexAfterTransfer advances s.i x
        pc := s.pc + 2#16 } := by
  rw [storeTransfer, storeRegs_frame]
  rfl

/-- FX65 changes the registers, I and pc only (44_index_memory.md R185). -/
theorem loadTransfer_frame (advances : Bool) (x : Nib) (s : State) :
    loadTransfer advances x s =
      { s with
        v := (loadRegs s (x.toNat + 1)).v
        i := indexAfterTransfer advances s.i x
        pc := s.pc + 2#16 } := by
  rw [loadTransfer, loadRegs_frame]
  rfl

/-- FX65 of X leaves the registers above X alone (44_index_memory.md R185). -/
theorem loadTransfer_getV_of_lt (advances : Bool) {x r : Nib} (s : State) (h : x.toNat < r.toNat) :
    (loadTransfer advances x s).getV r = s.getV r := by
  have hread := loadRegs_getV s (x.toNat + 1) x.isLt r
  rw [if_neg (by omega)] at hread
  exact hread

/-! ### The values of I stay within 12 bits (10_state.md R22) -/

theorem addrWord_le (nnn : Addr12) : (addrWord nnn).toNat ≤ 0x0FFF := by
  rw [addrWord_toNat]
  omega

theorem addToI_le (i : Word) (b : Byte) : (addToI i b).toNat ≤ 0x0FFF := by
  rw [addToI_toNat]
  omega

theorem glyphAddr_le (b : Byte) : (glyphAddr b).toNat ≤ 0x0FFF := by
  rw [glyphAddr_toNat]
  omega

theorem indexAfterTransfer_le (advances : Bool) {i : Word} (h : i.toNat ≤ 0x0FFF) (x : Nib) :
    (indexAfterTransfer advances i x).toNat ≤ 0x0FFF := by
  rw [indexAfterTransfer_toNat]
  split <;> omega

/-! ### The invariant -/

/-- A change that leaves memory, I and the key latch alone and arms no vblank wait keeps the invariant. -/
theorem State.Inv.of_unchanged {s t : State} (h : s.Inv) (mem : t.mem = s.mem) (index : t.i = s.i)
    (key : t.keyWait = s.keyWait) (vblank : t.vblankWait = true → s.vblankWait = true) : t.Inv := by
  obtain ⟨hmem, hi, hwait⟩ := h
  exact ⟨mem ▸ hmem, index ▸ hi, fun ⟨hk, hv⟩ => hwait ⟨key ▸ hk, vblank hv⟩⟩

theorem State.resetAt_inv (now : Nat) : (State.resetAt now).Inv :=
  ⟨Memory.wf_nil, Nat.zero_le _, fun ⟨hk, _⟩ => Bool.false_ne_true hk⟩

/-- Reset leaves the reset values in the parts the invariant speaks of (70_reset_and_hazards.md R260). -/
theorem resetOp_inv (now : Nat) (s : State) : (resetOp now s).Inv :=
  (State.resetAt_inv now).of_unchanged rfl rfl rfl id

/-- Load is a Reset and stores (20_memory.md R72). -/
theorem load_inv (bytes : List Byte) (now : Nat) (s : State) : (load bytes now s).1.Inv := by
  have hreset := resetOp_inv now s
  unfold load
  split
  · obtain ⟨hmem, hi, hwait⟩ := hreset
    refine ⟨wf_copyBytes hmem _ bytes, ?_⟩
    rw [copyBytes_frame]
    exact ⟨hi, hwait⟩
  · exact hreset

/-- The gate can only clear the vblank wait (47_frame_and_key_events.md R211). -/
theorem frameGate_inv {s : State} (h : s.Inv) (now : Nat) : (frameGate now s).Inv :=
  h.of_unchanged rfl rfl rfl fun hv => (Bool.and_eq_true_iff.mp hv).1

theorem press_inv {s : State} (h : s.Inv) (k : Nib) : (press k s).Inv := h.of_unchanged rfl rfl rfl id

/-- A Release that ends a key wait clears its latch; any other changes the keypad only
(47_frame_and_key_events.md R217). -/
theorem release_inv {s : State} (h : s.Inv) (k : Nib) : (release k s).Inv := by
  unfold release
  split
  · obtain ⟨hmem, hi, _⟩ := h
    exact ⟨hmem, hi, fun ⟨hk, _⟩ => Bool.false_ne_true hk⟩
  · exact h.of_unchanged rfl rfl rfl id

/-- An instruction that executes in Normal, where neither wait is active, keeps the invariant: it arms at most one
wait, every value it gives I is a 12-bit one, and it changes memory by stores only. -/
theorem exec_inv {i : Instr} {s t : State} (h : s.Inv) (hv : s.vblankWait = false) (hk : s.keyWait = false)
    (e : exec i s = .next t) : t.Inv := by
  have ⟨hmem, hi, hwait⟩ := h
  cases i with
  | cls | sys | jp | jpV0 | seImm | sneImm | seReg | sneReg | skp | sknp
  | ldImm | addImm | ldReg | orReg | andReg | xorReg | addReg | subReg | shr | subn | shl | rnd
  | ldVxDt | ldDtVx | ldStVx =>
    cases e
    exact h.of_unchanged rfl rfl rfl id
  | ret =>
    rw [execRet_frame e]
    exact h.of_unchanged rfl rfl rfl id
  | call nnn =>
    cases e
    rw [pushCall_frame]
    exact h.of_unchanged rfl rfl rfl id
  | drw x y n =>
    cases e
    exact ⟨hmem, hi, fun ⟨hkey, _⟩ => Bool.false_ne_true (hk.symm.trans hkey)⟩
  | ldVxK x =>
    cases e
    exact ⟨hmem, hi, fun ⟨_, hvblank⟩ => Bool.false_ne_true (hv.symm.trans hvblank)⟩
  | ldI nnn =>
    cases e
    exact ⟨hmem, addrWord_le nnn, hwait⟩
  | addI x =>
    cases e
    exact ⟨hmem, addToI_le s.i (s.getV x), hwait⟩
  | ldF x =>
    cases e
    exact ⟨hmem, glyphAddr_le (s.getV x), hwait⟩
  | ldB x =>
    cases e
    exact ⟨wf_storeDigits hmem (s.getV x), hi, hwait⟩
  | ldMemVx x =>
    cases e
    rw [storeTransfer_frame]
    exact ⟨wf_storeRegs hmem _, indexAfterTransfer_le _ hi x, hwait⟩
  | ldVxMem x =>
    cases e
    rw [loadTransfer_frame]
    exact ⟨hmem, indexAfterTransfer_le _ hi x, hwait⟩

/-- The word of a Normal Step is an instruction, or an unrecognized one, which is a flagged no-op (41_flow.md R145). -/
theorem execBytes_inv {bytes : List Byte} {s t : State} (h : s.Inv) (hv : s.vblankWait = false)
    (hk : s.keyWait = false) (e : execBytes bytes s = .next t) : t.Inv := by
  cases hd : decode bytes with
  | ok decoded =>
    rw [execBytes_ok hd] at e
    exact exec_inv h hv hk e
  | error r =>
    rw [execBytes_error hd] at e
    cases e
    exact h.of_unchanged rfl rfl rfl id

/-- Step gates in every state, and executes in Normal only (40_step_cycle.md R120). -/
theorem stepOp_inv {s t : State} (h : s.Inv) (now : Nat) (rnd : Byte) (e : stepOp now rnd s = .next t) : t.Inv := by
  have hgate := frameGate_inv h now
  cases hv : s.vblankWait with
  | true =>
    rw [stepOp_vblank hv] at e
    cases e
    exact hgate
  | false =>
    cases hk : s.keyWait with
    | true =>
      rw [stepOp_key hv hk] at e
      cases e
      exact hgate
    | false =>
      rw [stepOp_normal hv hk] at e
      have hlatched : State.Inv { frameGate now s with rndIn := rnd } := hgate.of_unchanged rfl rfl rfl id
      exact execBytes_inv hlatched (by simp [hv]) hk e

/-- Each of the six operations of 00_scope.md R8 keeps the invariant. -/
theorem perform_inv {op : Op} {s t : State} (h : s.Inv) (e : perform op s = .next t) : t.Inv := by
  cases op with
  | reset now => cases e; exact resetOp_inv now s
  | load bytes now => cases e; exact load_inv bytes now s
  | step now rnd => exact stepOp_inv h now rnd e
  | vblankCheck now => cases e; exact frameGate_inv h now
  | press k => cases e; exact press_inv h k
  | release k => cases e; exact release_inv h k

/-- Settles O51: every operation keeps the invariant, the one the environment has pending or the free Step. -/
theorem stepKeepsTheInvariant : Obligations.StepKeepsTheInvariant := by
  intro s t h e
  cases hops : s.inputs with
  | nil =>
    rw [step_nil hops] at e
    have hticked : State.Inv { s with tick := s.tick + 1 } := h.of_unchanged rfl rfl rfl id
    exact stepOp_inv hticked _ _ e
  | cons op rest =>
    rw [step_cons hops] at e
    have htaken : State.Inv { s with inputs := rest } := h.of_unchanged rfl rfl rfl id
    exact perform_inv htaken e

/-- Settles O52: the machine's reset state is the one Reset leaves, and that state has empty memory, I = 0 and no
wait. -/
theorem resetMeetsTheInvariant : Obligations.ResetMeetsTheInvariant :=
  ⟨State.resetAt_inv (Config.clock 0), resetOp_inv⟩

/-! ### The presenter's buffer -/

/-- A flattened vector of vectors lists the inner lists one after the other. -/
theorem toList_vectorFlatten {α : Type} {n m : Nat} (rows : Vector (Vector α n) m) :
    rows.flatten.toList = (rows.toList.map Vector.toList).flatten := by
  have harrays : rows.flatten.toList = (rows.toArray.map Vector.toArray).flatten.toList := rfl
  rw [harrays, Array.toList_flatten, Array.toList_map, List.map_map]
  rfl

/-- The buffer is the rows of the display, one after the other (10_state.md R32). -/
theorem frameBuffer_eq_flatten (s : State) :
    s.frameBuffer = (s.disp.map fun row => row.map flagValue).flatten.toList := by
  simp [State.frameBuffer, toList_vectorFlatten, Vector.toList_map, Function.comp_def]

/-- Settles O47: the byte at `y * 64 + x` lies in row `y`, column `x`, of the flattened rows. -/
theorem frameBufferIsRowMajor : Obligations.FrameBufferIsRowMajor := by
  intro s
  rw [frameBuffer_eq_flatten]
  refine ⟨Vector.length_toList, fun x y hx hy => ?_⟩
  have hrow : (y * 64 + x) / 64 = y := by omega
  have hcol : (y * 64 + x) % 64 = x := by omega
  have hlt : y * 64 + x < 32 * 64 := by omega
  rw [Vector.getElem?_toList, Vector.getElem?_eq_getElem hlt, Vector.getElem_flatten hlt]
  simp [hrow, hcol, Display.cell, hx, hy, flagValue]

/-! ### VF -/

/-- A write to one register changes another register's value only if it is the same one. -/
theorem State.eq_of_getV_setV_ne {s : State} {x r : Nib} {b : Byte} (h : (s.setV x b).getV r ≠ s.getV r) : x = r := by
  by_contra hne
  exact h (s.getV_setV_of_ne b (Ne.symm hne))

/-- FX65 of X changes VF only where X is F: every other X is below F. -/
theorem eq_vf_of_loadTransfer {advances : Bool} {x : Nib} {s : State}
    (h : (loadTransfer advances x s).getV vf ≠ s.getV vf) : x = vf := by
  by_contra hne
  have hlt : x.toNat < vf.toNat := by
    have hx : x.toNat ≠ vf.toNat := fun hx => hne (BitVec.eq_of_toNat_eq hx)
    have hvf : vf.toNat = 15 := rfl
    omega
  exact h (loadTransfer_getV_of_lt advances s hlt)

/-- Settles O54: the instructions that write no register leave VF, and those with a destination X write VF only
where X is F. -/
theorem onlyFlagWritersChangeVF : Obligations.OnlyFlagWritersChangeVF := by
  intro i s t e h
  cases i with
  | cls | sys | jp | jpV0 | seImm | sneImm | seReg | sneReg | skp | sknp | ldVxK | ldDtVx | ldStVx
  | ldI | addI | ldF | ldB =>
    cases e
    exact absurd rfl h
  | ret =>
    rw [execRet_frame e] at h
    exact absurd rfl h
  | call nnn =>
    cases e
    rw [pushCall_frame] at h
    exact absurd rfl h
  | ldMemVx x =>
    cases e
    rw [storeTransfer_frame] at h
    exact absurd rfl h
  | orReg x y | andReg x y | xorReg x y | addReg x y | subReg x y | shr x y | subn x y | shl x y =>
    exact .inl ⟨x, y, by simp⟩
  | drw x y n => exact .inl ⟨x, y, by simp⟩
  | ldImm x nn | addImm x nn | rnd x nn =>
    cases e
    obtain rfl := State.eq_of_getV_setV_ne h
    exact .inr (.inl ⟨nn, by simp⟩)
  | ldReg x y =>
    cases e
    obtain rfl := State.eq_of_getV_setV_ne h
    exact .inr (.inr (.inl ⟨y, rfl⟩))
  | ldVxDt x =>
    cases e
    obtain rfl := State.eq_of_getV_setV_ne h
    exact .inr (.inr (.inr (.inl rfl)))
  | ldVxMem x =>
    cases e
    obtain rfl := eq_vf_of_loadTransfer h
    exact .inr (.inr (.inr (.inr rfl)))

end Sys2Proof.Machine

namespace Sys2Proof.Machine

open Sys2Proof

/-! ### Stores over the instruction stream (20_memory.md R76) -/

@[simp] theorem loopReg_of_toNat (r : Nib) : loopReg r.toNat = r := by simp [loopReg]

/-- After FX55 of X, the byte at `I + r` is register `r` for every `r` up to X (44_index_memory.md R184). -/
theorem storeTransfer_memRead_effAddr (advances : Bool) {x r : Nib} {s : State} (hwf : s.mem.wf = true)
    (hr : r.toNat ≤ x.toNat) : (storeTransfer advances x s).memRead (s.effAddr r.toNat) = s.getV r := by
  obtain ⟨hstored, -⟩ := storeRegs_memRead hwf (x.toNat + 1) x.isLt
  rw [storeTransfer, State.memRead_advance, State.memRead_setI, hstored r.toNat (by omega), loopReg_of_toNat]

/-- Settles O43: the fetch reads the memory FX55 leaves, where every address that masks to `I + r` reads register
`r`. -/
theorem storedBytesAreFetchedAtOnce : Obligations.StoredBytesAreFetchedAtOnce := by
  intro x r s hwf hr
  have hstored (a : Nat) (ha : s.effAddr r.toNat = maskAddr a) :
      (storeTransfer Config.loadStoreAdvancesI x s).memRead a = s.getV r := by
    rw [← State.memRead_maskAddr, ← ha, storeTransfer_memRead_effAddr _ hwf hr]
  exact ⟨_, rfl, fun hfirst => congrArg some (hstored _ hfirst), fun hsecond => congrArg some (hstored _ hsecond)⟩

end Sys2Proof.Machine

namespace Sys2Proof.Machine

open Sys2Proof Laws

/-! ### The worked encodings (30_encoding.md R100) -/

/-- The word the opcode table gives a well-formed instruction decodes to it, once its round trip is known. -/
theorem decodeWord_of_encodeWord_eq {w : Word} {i : Instr} (hw : encodeWord i = w) (hwf : i.wellFormed = true)
    (hround : RoundTrip.Statement i) : decodeWord w = .ok i := by
  rw [← hw]
  exact hround hwf

/-- Two bytes whose word decodes are consumed, and no byte after them is (30_encoding.md R90). -/
theorem decode_of_decodeWord {hi lo : Byte} {w : Word} {i : Instr} (hw : wordOfBytes hi lo = w)
    (h : decodeWord w = .ok i) (rest : List Byte) : decode (hi :: lo :: rest) = .ok (i, rest) := by
  rw [decode_two, hw, h]
  rfl

/-- Settles O4: each of the ten words is the word the opcode table gives its instruction, so the round trip of that
instruction decodes it; the bytes follow from their words, and the fields of 0xD125 are read off. -/
theorem workedEncodingsDecode : Obligations.WorkedEncodingsDecode := by
  have hld : decodeWord 0x6A02#16 = .ok (.ldImm 0xA#4 0x02#8) :=
    decodeWord_of_encodeWord_eq (by decide) rfl (RoundTrip.ldImm _ _)
  have hse : decodeWord 0x3A02#16 = .ok (.seImm 0xA#4 0x02#8) :=
    decodeWord_of_encodeWord_eq (by decide) rfl (RoundTrip.seImm _ _)
  have hjp : decodeWord 0x1A00#16 = .ok (.jp 0xA00#12) :=
    decodeWord_of_encodeWord_eq (by decide) rfl (RoundTrip.jp _)
  have hfields : groupOf 0xD125#16 = 0xD#4 ∧ fieldX 0xD125#16 = 0x1#4 ∧ fieldY 0xD125#16 = 0x2#4 ∧
      fieldN 0xD125#16 = 0x5#4 ∧ fieldNN 0xD125#16 = 0x25#8 ∧ fieldNNN 0xD125#16 = 0x125#12 := by decide
  exact ⟨decode_of_decodeWord (by decide) hld [], decode_of_decodeWord (by decide) hse [],
    decode_of_decodeWord (by decide) hjp [], hld, hse, hjp,
    decodeWord_of_encodeWord_eq (by decide) rfl (RoundTrip.addReg _ _),
    decodeWord_of_encodeWord_eq (by decide) rfl (RoundTrip.drw _ _ _),
    decodeWord_of_encodeWord_eq (by decide) rfl (RoundTrip.ldVxK _),
    decodeWord_of_encodeWord_eq (by decide) rfl (RoundTrip.skp _),
    decodeWord_of_encodeWord_eq (by decide) rfl (RoundTrip.ldMemVx _),
    decodeWord_of_encodeWord_eq (by decide) rfl (RoundTrip.call _),
    decodeWord_of_encodeWord_eq (by decide) rfl RoundTrip.ret, hfields⟩

end Sys2Proof.Machine

namespace Sys2Proof.Machine

open Sys2Proof Laws

/-! ### Control flow (41_flow.md) -/

/-- A write to pc alone is framed by the empty footprint: pc lies outside every frame. -/
theorem State.frame_setPc (s : State) (a : Word) : Frame { } s (s.setPc a) :=
  Frame.of_update (fun r _ => s.getV_setPc a r) (fun b _ => s.memRead_setPc a b) rfl

/-- JP completes by writing NNN to pc (41_flow.md R142). -/
theorem exec_jp (nnn : Addr12) (s : State) : exec (.jp nnn) s = .next (s.setPc (addrWord nnn)) := rfl

/-- Settles O22: the round trip of JP decodes its word, and JP only writes pc, with NNN as a 16-bit value. -/
theorem jpSetsPc : Obligations.JpSetsPc := by
  intro nnn s
  have hdecode : decodeWord (formatA 0x1#4 nnn) = .ok (.jp nnn) := RoundTrip.jp nnn rfl
  have hpc : (s.setPc (addrWord nnn)).pc.toNat = nnn.toNat := addrWord_toNat nnn
  exact ⟨hdecode, s.setPc (addrWord nnn), exec_jp nnn s, hpc, s.frame_setPc (addrWord nnn)⟩

end Sys2Proof.Machine

namespace Sys2Proof.Machine

open Sys2Proof Laws

/-! ### Skips (42_skip.md) -/

/-- A skip writes pc alone (42_skip.md). -/
theorem State.frame_skipIf (s : State) (c : Bool) : Frame { } s (s.skipIf c) := s.frame_setPc _

/-- A skip whose condition holds passes over the next instruction (10_state.md R24(b)). -/
theorem State.skipIf_pc_of_true (s : State) {c : Bool} (h : c = true) : (s.skipIf c).pc = s.pc + 4#16 := by
  rw [State.skipIf_pc, if_pos h]

/-- A skip whose condition fails goes on to the next instruction (10_state.md R24(b)). -/
theorem State.skipIf_pc_of_false (s : State) {c : Bool} (h : c = false) : (s.skipIf c).pc = s.pc + 2#16 := by
  rw [State.skipIf_pc, if_neg (ne_true_of_eq_false h)]

/-- SE completes with a skip on Vx = NN (42_skip.md R150). -/
theorem exec_seImm (x : Nib) (nn : Byte) (s : State) : exec (.seImm x nn) s = .next (s.skipIf (s.getV x == nn)) := rfl

/-- SNE completes with a skip on Vx ≠ NN (42_skip.md R151). -/
theorem exec_sneImm (x : Nib) (nn : Byte) (s : State) : exec (.sneImm x nn) s = .next (s.skipIf (s.getV x != nn)) := rfl

/-- SKP completes with a skip on the key Vx names being pressed (42_skip.md R154). -/
theorem exec_skp (x : Nib) (s : State) : exec (.skp x) s = .next (s.skipIf (s.key (keyOf (s.getV x)))) := rfl

/-- SKNP completes with a skip on the key Vx names not being pressed (42_skip.md R155). -/
theorem exec_sknp (x : Nib) (s : State) : exec (.sknp x) s = .next (s.skipIf (!s.key (keyOf (s.getV x)))) := rfl

/-- Settles O26: the round trips decode the two words, and each instruction is a skip on the comparison of Vx with
NN. -/
theorem skipComparesImmediate : Obligations.SkipComparesImmediate := by
  intro x nn s
  have hdecodeSe : decodeWord (formatI 0x3#4 x nn) = .ok (.seImm x nn) := RoundTrip.seImm x nn rfl
  have hdecodeSne : decodeWord (formatI 0x4#4 x nn) = .ok (.sneImm x nn) := RoundTrip.sneImm x nn rfl
  refine ⟨hdecodeSe, hdecodeSne, ⟨_, exec_seImm x nn s, fun heq => ?_, fun hne => ?_, s.frame_skipIf _⟩,
    ⟨_, exec_sneImm x nn s, fun hne => ?_, fun heq => ?_, s.frame_skipIf _⟩⟩
  · exact s.skipIf_pc_of_true (beq_iff_eq.mpr heq)
  · exact s.skipIf_pc_of_false (beq_eq_false_iff_ne.mpr hne)
  · exact s.skipIf_pc_of_true (bne_iff_ne.mpr hne)
  · exact s.skipIf_pc_of_false (bne_eq_false_iff_eq.mpr heq)

/-- Settles O28: the key both instructions test is the one `Vx mod 16` names, and each is a skip on its state. -/
theorem skipTestsTheKey : Obligations.SkipTestsTheKey := by
  intro x k s hk
  obtain rfl : k = keyOf (s.getV x) := BitVec.eq_of_toNat_eq (hk.trans (keyOf_toNat _).symm)
  have hdecodeSkp : decodeWord (formatF 0xE#4 x 0x9E#8) = .ok (.skp x) := RoundTrip.skp x rfl
  have hdecodeSknp : decodeWord (formatF 0xE#4 x 0xA1#8) = .ok (.sknp x) := RoundTrip.sknp x rfl
  refine ⟨hdecodeSkp, hdecodeSknp, ⟨_, exec_skp x s, fun hdown => ?_, fun hup => ?_, s.frame_skipIf _⟩,
    ⟨_, exec_sknp x s, fun hup => ?_, fun hdown => ?_, s.frame_skipIf _⟩⟩
  · exact s.skipIf_pc_of_true hdown
  · exact s.skipIf_pc_of_false hup
  · exact s.skipIf_pc_of_true (by rw [hup, Bool.not_false])
  · exact s.skipIf_pc_of_false (by rw [hdown, Bool.not_true])

end Sys2Proof.Machine

namespace Sys2Proof.Machine

open Sys2Proof Laws

/-! ### Loads and arithmetic without a flag (43_load_alu.md) -/

/-- A write to one register, then the advance, changes that register and pc only, whichever register it is
(43_load_alu.md R160, R161, R162). -/
theorem State.frame_setV_advance (s : State) (x : Nib) (b : Byte) : Frame { regs := [x] } s (s.setV x b).advance := by
  have hregs (r : Nib) (hr : r ∉ [x]) : (s.setV x b).advance.getV r = s.getV r := by
    rw [State.getV_advance, s.getV_setV_of_ne b (List.ne_of_not_mem_cons hr)]
  have hmem (a : Nat) : (s.setV x b).advance.memRead a = s.memRead a := by
    rw [State.memRead_advance, State.memRead_setV]
  exact Frame.of_update hregs (fun a _ => hmem a) rfl

/-- The register written before the advance reads as the byte written. -/
theorem State.getV_setV_advance_self (s : State) (x : Nib) (b : Byte) : (s.setV x b).advance.getV x = b := by
  rw [State.getV_advance, State.getV_setV_self]

/-- A write to a register does not disturb the advance of pc. -/
theorem State.setV_advance_pc (s : State) (x : Nib) (b : Byte) : (s.setV x b).advance.pc = s.pc + 2#16 := by
  rw [State.advance_pc, State.setV_pc]

/-- LD Vx, NN completes by writing NN to Vx (43_load_alu.md R160). -/
theorem exec_ldImm (x : Nib) (nn : Byte) (s : State) : exec (.ldImm x nn) s = .next (s.setV x nn).advance := rfl

/-- ADD Vx, NN completes by writing the 8-bit sum to Vx, and no flag (43_load_alu.md R161). -/
theorem exec_addImm (x : Nib) (nn : Byte) (s : State) :
    exec (.addImm x nn) s = .next (s.setV x (s.getV x + nn)).advance := rfl

/-- LD Vx, Vy completes by writing Vy to Vx (43_load_alu.md R162). -/
theorem exec_ldReg (x y : Nib) (s : State) : exec (.ldReg x y) s = .next (s.setV x (s.getV y)).advance := rfl

/-- Settles O29: the round trip decodes the word, and the instruction only writes NN to Vx and advances. -/
theorem loadImmediateSetsVx : Obligations.LoadImmediateSetsVx := by
  intro x nn s
  have hdecode : decodeWord (formatI 0x6#4 x nn) = .ok (.ldImm x nn) := RoundTrip.ldImm x nn rfl
  exact ⟨hdecode, _, exec_ldImm x nn s, s.getV_setV_advance_self x nn, s.setV_advance_pc x nn,
    s.frame_setV_advance x nn⟩

/-- Settles O30: the round trip decodes the word, and the byte written to Vx is the 8-bit sum, whose value is the sum
modulo 256. -/
theorem addImmediateWraps : Obligations.AddImmediateWraps := by
  intro x nn s
  have hdecode : decodeWord (formatI 0x7#4 x nn) = .ok (.addImm x nn) := RoundTrip.addImm x nn rfl
  have hsum : ((s.setV x (s.getV x + nn)).advance.getV x).toNat = ((s.getV x).toNat + nn.toNat) % 256 := by
    rw [State.getV_setV_advance_self, BitVec.toNat_add]
  exact ⟨hdecode, _, exec_addImm x nn s, hsum, s.setV_advance_pc x _, s.frame_setV_advance x _⟩

/-- Settles O31: the round trip decodes the word, and the instruction only writes the old Vy to Vx and advances. -/
theorem copyRegisterSetsVx : Obligations.CopyRegisterSetsVx := by
  intro x y s
  have hdecode : decodeWord (formatR 0x8#4 x y 0x0#4) = .ok (.ldReg x y) := RoundTrip.ldReg x y rfl
  exact ⟨hdecode, _, exec_ldReg x y s, s.getV_setV_advance_self x _, s.setV_advance_pc x _,
    s.frame_setV_advance x _⟩

end Sys2Proof.Machine

namespace Sys2Proof.Machine

open Sys2Proof Laws

/-! ### The address register (44_index_memory.md R180, R181, R182) -/

/-- A write to I, then the advance, changes I and pc only; no register is written, VF neither (44_index_memory.md
R181). -/
theorem State.frame_setI_advance (s : State) (a : Word) : Frame { index := true } s (s.setI a).advance := by
  have hregs (r : Nib) : (s.setI a).advance.getV r = s.getV r := by rw [State.getV_advance, State.getV_setI]
  have hmem (c : Nat) : (s.setI a).advance.memRead c = s.memRead c := by rw [State.memRead_advance, State.memRead_setI]
  exact Frame.of_update (fun r _ => hregs r) (fun c _ => hmem c) rfl

/-- The advance does not disturb the value written to I. -/
theorem State.setI_advance_i (s : State) (a : Word) : (s.setI a).advance.i = a := by
  rw [State.advance_i, State.setI_i]

/-- A write to I does not disturb the advance of pc. -/
theorem State.setI_advance_pc (s : State) (a : Word) : (s.setI a).advance.pc = s.pc + 2#16 := by
  rw [State.advance_pc, State.setI_pc]

/-- LD I, NNN completes by writing NNN to I (44_index_memory.md R180). -/
theorem exec_ldI (nnn : Addr12) (s : State) : exec (.ldI nnn) s = .next (s.setI (addrWord nnn)).advance := rfl

/-- ADD I, Vx completes by writing the masked sum to I (44_index_memory.md R181). -/
theorem exec_addI (x : Nib) (s : State) : exec (.addI x) s = .next (s.setI (addToI s.i (s.getV x))).advance := rfl

/-- LD F, Vx completes by writing the address of the glyph to I (44_index_memory.md R182). -/
theorem exec_ldF (x : Nib) (s : State) : exec (.ldF x) s = .next (s.setI (glyphAddr (s.getV x))).advance := rfl

/-- Settles O37: the round trip decodes the word, and the instruction only writes NNN, as a 16-bit value, to I and
advances. -/
theorem loadISetsI : Obligations.LoadISetsI := by
  intro nnn s
  have hdecode : decodeWord (formatA 0xA#4 nnn) = .ok (.ldI nnn) := RoundTrip.ldI nnn rfl
  have hindex : (s.setI (addrWord nnn)).advance.i.toNat = nnn.toNat := by
    rw [State.setI_advance_i, addrWord_toNat]
  exact ⟨hdecode, _, exec_ldI nnn s, hindex, s.setI_advance_pc _, s.frame_setI_advance _⟩

/-- Settles O38: the round trip decodes the word, and the value written to I is the sum under the 12-bit mask, which is
the sum modulo 4096. -/
theorem addIIsMasked : Obligations.AddIIsMasked := by
  intro x s
  have hdecode : decodeWord (formatF 0xF#4 x 0x1E#8) = .ok (.addI x) := RoundTrip.addI x rfl
  have hindex : (s.setI (addToI s.i (s.getV x))).advance.i.toNat = (s.i.toNat + (s.getV x).toNat) % 4096 := by
    rw [State.setI_advance_i, addToI_toNat]
  exact ⟨hdecode, _, exec_addI x s, hindex, s.setI_advance_pc _, s.frame_setI_advance _⟩

/-- Settles O39: the round trip decodes the word, and the value written to I is five times the low nibble of Vx, which
never wraps. -/
theorem loadFPointsAtTheGlyph : Obligations.LoadFPointsAtTheGlyph := by
  intro x s
  have hdecode : decodeWord (formatF 0xF#4 x 0x29#8) = .ok (.ldF x) := RoundTrip.ldF x rfl
  have hindex : (s.setI (glyphAddr (s.getV x))).advance.i.toNat = (s.getV x).toNat % 16 * 5 := by
    rw [State.setI_advance_i, glyphAddr_toNat]
  exact ⟨hdecode, _, exec_ldF x s, hindex, s.setI_advance_pc _, s.frame_setI_advance _⟩

end Sys2Proof.Machine

namespace Sys2Proof.Machine

open Sys2Proof Laws

/-! ### The decimal digits of a register in memory (44_index_memory.md R183) -/

theorem hundreds_toNat (b : Byte) : (hundreds b).toNat = b.toNat / 100 := by
  have := b.isLt
  rw [hundreds, BitVec.toNat_ofNat]
  omega

theorem tens_toNat (b : Byte) : (tens b).toNat = b.toNat / 10 % 10 := by
  rw [tens, BitVec.toNat_ofNat]
  omega

theorem ones_toNat (b : Byte) : (ones b).toNat = b.toNat % 10 := by
  rw [ones, BitVec.toNat_ofNat]
  omega

/-- No digit overwrites another: `I`, `I + 1` and `I + 2` stay distinct under the mask (44_index_memory.md R183). -/
theorem storeDigits_memRead_effAddr {s : State} (hwf : s.mem.wf = true) (b : Byte) :
    (storeDigits b s).memRead (s.effAddr 0) = hundreds b ∧
    (storeDigits b s).memRead (s.effAddr 1) = tens b ∧
    (storeDigits b s).memRead (s.effAddr 2) = ones b := by
  have h01 : s.effAddr 0 ≠ s.effAddr 1 := mt (s.effAddr_inj (by decide) (by decide)) (by decide)
  have h02 : s.effAddr 0 ≠ s.effAddr 2 := mt (s.effAddr_inj (by decide) (by decide)) (by decide)
  have h12 : s.effAddr 1 ≠ s.effAddr 2 := mt (s.effAddr_inj (by decide) (by decide)) (by decide)
  refine ⟨?_, ?_, ?_⟩ <;> rw [storeDigits_memRead hwf, State.maskAddr_effAddr]
  · rw [if_neg h02, if_neg h01, if_pos rfl]
  · rw [if_neg h12, if_pos rfl]
  · rw [if_pos rfl]

/-- The three writes of FX33 leave every address alone that masks to none of theirs (44_index_memory.md R183). -/
theorem storeDigits_memRead_of_not_mem {s : State} (hwf : s.mem.wf = true) (b : Byte) {a : Nat}
    (ha : maskAddr a ∉ [s.effAddr 0, s.effAddr 1, s.effAddr 2]) : (storeDigits b s).memRead a = s.memRead a := by
  simp only [List.mem_cons, List.not_mem_nil, or_false, not_or] at ha
  obtain ⟨h0, h1, h2⟩ := ha
  rw [storeDigits_memRead hwf, if_neg h2, if_neg h1, if_neg h0]

/-- The three writes of FX33, then the advance, change the three bytes and pc only (44_index_memory.md R183). -/
theorem storeDigits_advance_frame {s : State} (hwf : s.mem.wf = true) (b : Byte) :
    Frame { mem := [s.effAddr 0, s.effAddr 1, s.effAddr 2] } s (storeDigits b s).advance := by
  have hmem (a : Nat) (ha : maskAddr a ∉ [s.effAddr 0, s.effAddr 1, s.effAddr 2]) :
      (storeDigits b s).advance.memRead a = s.memRead a := by
    rw [State.memRead_advance, storeDigits_memRead_of_not_mem hwf b ha]
  exact Frame.of_update (fun _ _ => rfl) hmem rfl

/-- LD B, Vx completes by the three writes of the digits of Vx (44_index_memory.md R183). -/
theorem exec_ldB (x : Nib) (s : State) : exec (.ldB x) s = .next (storeDigits (s.getV x) s).advance := rfl

/-- Settles O40: the round trip decodes the word, and each of the three distinct addresses reads the digit stored
there. -/
theorem loadBStoresTheDigits : Obligations.LoadBStoresTheDigits := by
  intro x s hwf
  have hdecode : decodeWord (formatF 0xF#4 x 0x33#8) = .ok (.ldB x) := RoundTrip.ldB x rfl
  obtain ⟨hhundreds, htens, hones⟩ := storeDigits_memRead_effAddr hwf (s.getV x)
  refine ⟨hdecode, _, exec_ldB x s, ?_, ?_, ?_, rfl, storeDigits_advance_frame hwf _⟩
  · rw [State.memRead_advance, hhundreds, hundreds_toNat]
  · rw [State.memRead_advance, htens, tens_toNat]
  · rw [State.memRead_advance, hones, ones_toNat]

end Sys2Proof.Machine

namespace Sys2Proof.Machine

open Sys2Proof Laws

/-! ### Clearing the display (45_display.md R190) -/

/-- A new display buffer, then the advance, changes the cells and pc only; no wait is armed (45_display.md R190). -/
theorem State.frame_disp_advance (s : State) (d : Display) :
    Frame { disp := true } s { s with disp := d }.advance :=
  Frame.of_update (fun _ _ => rfl) (fun _ _ => rfl) rfl

/-- CLS completes with the blank buffer for the display (45_display.md R190). -/
theorem exec_cls (s : State) : exec .cls s = .next { s with disp := blankDisplay }.advance := rfl

/-- Settles O44: the round trip decodes the word, and the instruction only puts the blank buffer, whose cells are all
0, in the display's place and advances. -/
theorem clsClearsEveryCell : Obligations.ClsClearsEveryCell := by
  intro s
  have hdecode : decodeWord 0x00E0#16 = .ok .cls := RoundTrip.cls rfl
  exact ⟨hdecode, _, exec_cls s, blankDisplay_cell, State.advance_pc _, s.frame_disp_advance blankDisplay⟩

end Sys2Proof.Machine

namespace Sys2Proof.Machine

open Sys2Proof Host

/-! ### Runs of gates (47_frame_and_key_events.md R215) -/

/-- A byte that every gate changes as it changes a timer is, after a run of gates, down by the number of due ones
or at 0. -/
theorem gates_timer_toNat {timer : State → Byte}
    (hgate : ∀ now s, timer (frameGate now s) = timerAfterGate (s.due now) (timer s))
    (readings : List Nat) (s : State) :
    (timer (gates readings s)).toNat = (timer s).toNat - dueCount readings s := by
  induction readings generalizing s with
  | nil => rfl
  | cons now rest ih =>
    rw [gates, dueCount, ih, hgate, timerAfterGate_toNat]
    split <;> omega

/-- Settles O16: DT and ST are both timers the gate ticks, so one induction over the gates serves both. -/
theorem timersCountDueGates : Obligations.TimersCountDueGates := fun readings s =>
  ⟨gates_timer_toNat frameGate_dt readings s, gates_timer_toNat frameGate_st readings s⟩

/-! ### The deadline is read by the gate only (10_state.md R36, 47_frame_and_key_events.md R214) -/

/-- The state with another frame deadline. -/
def State.withDeadline (s : State) (d : Nat) : State := { s with deadline := d }

/-- Two gates that agree on the due bit act alike on all but the deadline. -/
theorem frameGate_withDeadline {s : State} {now now' d' : Nat} (hdue : (s.withDeadline d').due now' = s.due now) :
    ∃ d, frameGate now' (s.withDeadline d') = (frameGate now s).withDeadline d :=
  ⟨_, congrArg (fun due => (gateDue due s).withDeadline (frameGate now' (s.withDeadline d')).deadline) hdue⟩

theorem storeRegs_withDeadline (s : State) (d n : Nat) :
    storeRegs (s.withDeadline d) n = (storeRegs s n).withDeadline d :=
  List.foldl_hom (State.withDeadline · d) fun _ _ => rfl

theorem loadRegs_withDeadline (s : State) (d n : Nat) :
    loadRegs (s.withDeadline d) n = (loadRegs s n).withDeadline d :=
  List.foldl_hom (State.withDeadline · d) fun _ _ => rfl

theorem storeTransfer_withDeadline (advances : Bool) (x : Nib) (s : State) (d : Nat) :
    storeTransfer advances x (s.withDeadline d) = (storeTransfer advances x s).withDeadline d := by
  rw [storeTransfer, storeRegs_withDeadline]
  rfl

theorem loadTransfer_withDeadline (advances : Bool) (x : Nib) (s : State) (d : Nat) :
    loadTransfer advances x (s.withDeadline d) = (loadTransfer advances x s).withDeadline d := by
  rw [loadTransfer, loadRegs_withDeadline]
  rfl

theorem pushCall_withDeadline (s : State) (d : Nat) : pushCall (s.withDeadline d) = (pushCall s).withDeadline d :=
  (apply_dite (State.withDeadline · d) (s.sp.val < 16) (s.push s.pc) fun _ => s.flag .stackOverflow).symm

theorem execRet_withDeadline {s t : State} (d : Nat) (e : execRet s = .next t) :
    execRet (s.withDeadline d) = .next (t.withDeadline d) := by
  unfold execRet at e
  split at e <;> cases e
  · next hsp => exact dif_pos hsp
  · next hsp => exact dif_neg hsp

/-- No instruction reads or writes the deadline. -/
theorem exec_withDeadline {i : Instr} {s t : State} (d : Nat) (e : exec i s = .next t) :
    exec i (s.withDeadline d) = .next (t.withDeadline d) := by
  cases i with
  | cls | sys | jp | jpV0 | seImm | sneImm | seReg | sneReg | skp | sknp
  | ldImm | addImm | ldReg | orReg | andReg | xorReg | addReg | subReg | shr | subn | shl | rnd | drw
  | ldVxDt | ldVxK | ldDtVx | ldStVx | ldI | addI | ldF | ldB =>
    cases e
    rfl
  | ret => exact execRet_withDeadline d e
  | call nnn =>
    cases e
    exact congrArg (fun u => Outcome.next (u.setPc (addrWord nnn))) (pushCall_withDeadline s d)
  | ldMemVx x =>
    cases e
    exact congrArg Outcome.next (storeTransfer_withDeadline _ x s d)
  | ldVxMem x =>
    cases e
    exact congrArg Outcome.next (loadTransfer_withDeadline _ x s d)

/-- Fetched bytes that decode to no instruction leave the deadline out as well (41_flow.md R145). -/
theorem execBytes_withDeadline {bytes : List Byte} {s t : State} (d : Nat) (e : execBytes bytes s = .next t) :
    execBytes bytes (s.withDeadline d) = .next (t.withDeadline d) := by
  cases hd : decode bytes with
  | ok decoded =>
    rw [execBytes_ok hd] at e ⊢
    exact exec_withDeadline d e
  | error r =>
    rw [execBytes_error hd] at e ⊢
    cases e
    rfl

/-- Two Steps whose gates lead to states equal up to the deadline lead themselves to such states: what follows the
gate, nothing or one instruction, does not look at the deadline (40_step_cycle.md R120). -/
theorem stepOp_withDeadline {s t : State} {now now' d d' : Nat} {rnd : Byte}
    (hgate : frameGate now' (s.withDeadline d') = (frameGate now s).withDeadline d) (e : stepOp now rnd s = .next t) :
    stepOp now' rnd (s.withDeadline d') = .next (t.withDeadline d) := by
  cases hv : s.vblankWait with
  | true =>
    rw [stepOp_vblank hv] at e
    rw [stepOp_vblank (s := s.withDeadline d') hv, hgate]
    cases e
    rfl
  | false =>
    cases hk : s.keyWait with
    | true =>
      rw [stepOp_key hv hk] at e
      rw [stepOp_key (s := s.withDeadline d') hv hk, hgate]
      cases e
      rfl
    | false =>
      rw [stepOp_normal hv hk] at e
      rw [stepOp_normal (s := s.withDeadline d') hv hk, hgate]
      exact execBytes_withDeadline d e

/-- Settles O58: the two gates agree on the due bit, and past its gate a Step does not look at the deadline. -/
theorem stepDependsOnTimeOnlyThroughDue : Obligations.StepDependsOnTimeOnlyThroughDue := by
  intro s t now now' d' rnd hdue e
  obtain ⟨d, hgate⟩ := frameGate_withDeadline (s := s) (now := now) (now' := now') (d' := d') hdue.symm
  exact ⟨d, stepOp_withDeadline hgate e⟩

end Sys2Proof.Machine

namespace Sys2Proof.Machine

open Sys2Proof Host

/-! ### Every outcome is a next state (60_exceptions.md R230, R232) -/

/-- RET completes on a stack with an entry and, as a flagged no-op, on an empty one (41_flow.md R141). -/
theorem execRet_answers (s : State) : ∃ t, execRet s = .next t := by
  cases Nat.eq_zero_or_pos s.sp.val with
  | inl hempty => exact ⟨_, dif_neg (Nat.not_lt.mpr (Nat.le_of_eq hempty))⟩
  | inr hentry => exact ⟨_, dif_pos hentry⟩

/-- RET alone chooses between two outcomes; every other instruction's outcome is one next state, the branches of a
skip or of a push inside it. -/
theorem exec_answers (i : Instr) (s : State) : ∃ t, exec i s = .next t := by
  cases i with
  | ret => exact execRet_answers s
  | cls | sys | jp | jpV0 | call | seImm | sneImm | seReg | sneReg | skp | sknp
  | ldImm | addImm | ldReg | orReg | andReg | xorReg | addReg | subReg | shr | subn | shl | rnd | drw
  | ldVxDt | ldVxK | ldDtVx | ldStVx | ldI | addI | ldF | ldB | ldMemVx | ldVxMem =>
    exact ⟨_, rfl⟩

/-- Bytes that decode to no instruction are stepped over (30_encoding.md R95, 41_flow.md R145). -/
theorem execBytes_answers (bytes : List Byte) (s : State) : ∃ t, execBytes bytes s = .next t := by
  cases hd : decode bytes with
  | ok decoded =>
    rw [execBytes_ok hd]
    exact exec_answers decoded.1 s
  | error r => exact ⟨_, execBytes_error hd s⟩

/-- A Step answers in each of the three cases of 40_step_cycle.md R120: in a wait by its gate alone. -/
theorem stepOp_answers (now : Nat) (rnd : Byte) (s : State) : ∃ t, stepOp now rnd s = .next t := by
  cases hv : s.vblankWait with
  | true => exact ⟨_, stepOp_vblank hv now rnd⟩
  | false =>
    cases hk : s.keyWait with
    | true => exact ⟨_, stepOp_key hv hk now rnd⟩
    | false =>
      rw [stepOp_normal hv hk]
      exact execBytes_answers s.fetchBytes _

/-- Of the six operations of 00_scope.md R8 only Step can run an instruction; a Load that fails answers too. -/
theorem perform_answers (op : Op) (s : State) : ∃ t, perform op s = .next t := by
  cases op with
  | step now rnd => exact stepOp_answers now rnd s
  | reset | load | vblankCheck | press | release => exact ⟨_, rfl⟩

/-- A step is an operation the environment has pending, or the free Step (log 1). -/
theorem step_answers (s : State) : ∃ t, step s = .next t := by
  cases hops : s.inputs with
  | nil =>
    rw [step_nil hops]
    exact stepOp_answers _ _ _
  | cons op rest =>
    rw [step_cons hops]
    exact perform_answers op _

/-- Settles O50: every instruction completes, so every Step does, so every operation, and so every step. -/
theorem nothingStopsTheMachine : Obligations.NothingStopsTheMachine :=
  ⟨exec_answers, perform_answers, step_answers⟩

end Sys2Proof.Machine

namespace Sys2Proof.Machine

open Sys2Proof Host

/-! ### Reset (70_reset_and_hazards.md R260) -/

theorem resetOp_getV (now : Nat) (s : State) (x : Nib) : (resetOp now s).getV x = 0#8 :=
  Vector.getElem_replicate x.isLt

theorem resetOp_slot (now : Nat) (s : State) (j : Fin 16) : (resetOp now s).slot j = 0#16 :=
  Vector.getElem_replicate j.isLt

theorem resetOp_key (now : Nat) (s : State) (k : Nib) : (resetOp now s).key k = false :=
  Vector.getElem_replicate k.isLt

/-- The first 80 bytes after a reset hold FONT (20_memory.md R70). -/
theorem resetOp_memRead_font (now : Nat) (s : State) {a : Nat} (h : a < 80) :
    (resetOp now s).memRead a = Config.font.getD a 0#8 := by
  rw [resetOp_memRead, maskAddr_of_lt (by omega), Memory.background, if_pos h]

/-- Above FONT memory is zero after a reset (20_memory.md R70). -/
theorem resetOp_memRead_zero (now : Nat) (s : State) {a : Nat} (h : 80 ≤ a) (hmax : a ≤ 4095) :
    (resetOp now s).memRead a = 0#8 := by
  rw [resetOp_memRead, maskAddr_of_lt (by omega), Memory.background, if_neg (by omega)]

/-- Settles O1: the registers, slots, keys, bytes and cells are read by index, each through its own law; every other
part, and the machine's reset state, is what the definition of the reset state writes there. -/
theorem resetLeavesTheResetState : Obligations.ResetLeavesTheResetState := fun now s =>
  ⟨rfl, resetOp_getV now s, rfl, rfl, rfl, resetOp_slot now s, rfl, rfl, resetOp_key now s, rfl,
    fun _ => resetOp_memRead_font now s, fun _ => resetOp_memRead_zero now s, blankDisplay_cell,
    rfl, rfl, rfl, rfl, rfl, rfl⟩

/-! ### A Normal Step, and the gate's frame (40_step_cycle.md R120) -/

/-- With neither latch set the engine is in Normal (10_state.md R35). -/
theorem State.engine_eq_normal {s : State} (hv : s.vblankWait = false) (hk : s.keyWait = false) :
    s.engine = .normal := by
  simp [State.engine, hv, hk]

/-- With the vblank latch set the engine awaits vblank, whatever the key latch holds (10_state.md R35). -/
theorem State.engine_eq_awaitingVblank {s : State} (hv : s.vblankWait = true) : s.engine = .awaitingVblank :=
  if_pos hv

/-- The state in which a Normal Step executes its instruction: after the gate, with the Step's random byte latched
(40_step_cycle.md R123, D4). -/
def State.gated (s : State) (now : Nat) (rnd : Byte) : State := { frameGate now s with rndIn := rnd }

/-- A Normal Step executes, after its gate, the instruction the bytes at pc decode to (40_step_cycle.md R123). -/
theorem stepOp_of_decode {s : State} {i : Instr} {rest : List Byte} (hnormal : s.engine = .normal)
    (hdecode : decode s.fetchBytes = .ok (i, rest)) (now : Nat) (rnd : Byte) :
    stepOp now rnd s = exec i (s.gated now rnd) := by
  obtain ⟨hv, hk⟩ := State.engine_normal hnormal
  rw [stepOp_normal hv hk, execBytes_ok hdecode]
  rfl

/-- A gate never arms a wait (47_frame_and_key_events.md R211). -/
theorem State.gated_engine {s : State} (hnormal : s.engine = .normal) (now : Nat) (rnd : Byte) :
    (s.gated now rnd).engine = .normal := by
  obtain ⟨hv, hk⟩ := State.engine_normal hnormal
  have hvGated : (s.gated now rnd).vblankWait = false := by simp [State.gated, hv]
  exact State.engine_eq_normal hvGated hk

/-- Besides the deadline, which no footprint covers, a gate changes only the timers and the vblank latch
(47_frame_and_key_events.md R211). -/
theorem frameGate_frame (now : Nat) (s : State) :
    Frame { dt := true, st := true, vblankLatch := true }
      { s with deadline := (frameGate now s).deadline } (frameGate now s) :=
  Frame.of_update (fun _ _ => rfl) (fun _ _ => rfl) rfl

/-! ### The jump to itself (70_reset_and_hazards.md R264) -/

/-- A jump to the address pc holds changes nothing. -/
theorem exec_jp_self {nnn : Addr12} {s : State} (h : addrWord nnn = s.pc) : exec (.jp nnn) s = .next s := by
  rw [exec_jp, h]
  rfl

/-- The gate changes neither pc nor memory, so the same jump is fetched after it. -/
theorem State.Finished.gated {s : State} (h : s.Finished) (now : Nat) (rnd : Byte) : (s.gated now rnd).Finished := h

/-- Settles O59: the Step executes the jump in the state after its gate, where pc is still the jump's target. -/
theorem jumpToSelfIsForever : Obligations.JumpToSelfIsForever := by
  intro s now rnd hfinished hnormal
  have ⟨nnn, hdecode, htarget⟩ := hfinished
  have hstep : stepOp now rnd s = .next (s.gated now rnd) := by
    rw [stepOp_of_decode hnormal hdecode]
    exact exec_jp_self htarget
  exact ⟨s.gated now rnd, hstep, State.Finished.gated hfinished now rnd, State.gated_engine hnormal now rnd, rfl⟩

/-! ### The wait after a draw (47_frame_and_key_events.md R213) -/

/-- DRW completes with the vblank wait armed and the key latch as it was (45_display.md R191). -/
theorem exec_drw_waits (x y n : Nib) (s : State) :
    ∃ t, exec (.drw x y n) s = .next t ∧ t.vblankWait = true ∧ t.keyWait = s.keyWait :=
  ⟨_, rfl, rfl, rfl⟩

/-- A Step that awaits vblank does nothing before the deadline (40_step_cycle.md R121). -/
theorem stepOp_vblank_not_due {s : State} (hv : s.vblankWait = true) {now : Nat} (h : now < s.deadline) (rnd : Byte) :
    stepOp now rnd s = .next s := by
  rw [stepOp_vblank hv, frameGate_not_due h]

/-- Settles O60: DRW arms the vblank wait after its Step's gate; from then on a Step is its gate alone, which is idle
before the deadline and clears the wait from the deadline on. -/
theorem drawWaitsForTheFrame : Obligations.DrawWaitsForTheFrame := by
  intro s now rnd x y n rest hnormal hdecode
  obtain ⟨t, hdraw, hv, hkeyWait⟩ := exec_drw_waits x y n (s.gated now rnd)
  have hstep : stepOp now rnd s = .next t := (stepOp_of_decode hnormal hdecode now rnd).trans hdraw
  obtain ⟨-, hkGated⟩ := State.engine_normal (State.gated_engine hnormal now rnd)
  have hk : t.keyWait = false := hkeyWait.trans hkGated
  refine ⟨t, hstep, State.engine_eq_awaitingVblank hv, fun later byte hbefore => ?_, fun later byte hdue => ?_⟩
  · exact stepOp_vblank_not_due hv hbefore byte
  · obtain ⟨-, -, hcleared, -⟩ := frameGate_due hdue
    exact ⟨frameGate later t, stepOp_vblank hv later byte, hcleared, hk, rfl, frameGate_frame later t⟩

end Sys2Proof.Machine

namespace Sys2Proof

open Laws

/-! ### Encoding and decoding (30_encoding.md R90 to R94) -/

/-- The word of every well-formed instruction decodes to it: the round trips of the 35 rows together. -/
theorem decodeWord_encodeWord {i : Instr} (hwf : i.wellFormed = true) : decodeWord (encodeWord i) = .ok i := by
  cases i with
  | cls => exact RoundTrip.cls hwf
  | ret => exact RoundTrip.ret hwf
  | sys nnn => exact RoundTrip.sys nnn hwf
  | jp nnn => exact RoundTrip.jp nnn hwf
  | call nnn => exact RoundTrip.call nnn hwf
  | seImm x nn => exact RoundTrip.seImm x nn hwf
  | sneImm x nn => exact RoundTrip.sneImm x nn hwf
  | seReg x y => exact RoundTrip.seReg x y hwf
  | ldImm x nn => exact RoundTrip.ldImm x nn hwf
  | addImm x nn => exact RoundTrip.addImm x nn hwf
  | ldReg x y => exact RoundTrip.ldReg x y hwf
  | orReg x y => exact RoundTrip.orReg x y hwf
  | andReg x y => exact RoundTrip.andReg x y hwf
  | xorReg x y => exact RoundTrip.xorReg x y hwf
  | addReg x y => exact RoundTrip.addReg x y hwf
  | subReg x y => exact RoundTrip.subReg x y hwf
  | shr x y => exact RoundTrip.shr x y hwf
  | subn x y => exact RoundTrip.subn x y hwf
  | shl x y => exact RoundTrip.shl x y hwf
  | sneReg x y => exact RoundTrip.sneReg x y hwf
  | ldI nnn => exact RoundTrip.ldI nnn hwf
  | jpV0 nnn => exact RoundTrip.jpV0 nnn hwf
  | rnd x nn => exact RoundTrip.rnd x nn hwf
  | drw x y n => exact RoundTrip.drw x y n hwf
  | skp x => exact RoundTrip.skp x hwf
  | sknp x => exact RoundTrip.sknp x hwf
  | ldVxDt x => exact RoundTrip.ldVxDt x hwf
  | ldVxK x => exact RoundTrip.ldVxK x hwf
  | ldDtVx x => exact RoundTrip.ldDtVx x hwf
  | ldStVx x => exact RoundTrip.ldStVx x hwf
  | addI x => exact RoundTrip.addI x hwf
  | ldF x => exact RoundTrip.ldF x hwf
  | ldB x => exact RoundTrip.ldB x hwf
  | ldMemVx x => exact RoundTrip.ldMemVx x hwf
  | ldVxMem x => exact RoundTrip.ldVxMem x hwf

/-- Settles O5: the two bytes make the instruction's word again, and that word decodes to it. -/
theorem decodeOfEncodeIsTheInstruction : Obligations.DecodeOfEncodeIsTheInstruction := by
  intro i rest hwf
  have hword := wordOfBytes_bytesOfWord (encodeWord i)
  exact ⟨rfl, Machine.decode_of_decodeWord hword (decodeWord_encodeWord hwf) rest⟩

/-- `i` is well-formed and `w` is its word: what the opcode table asks of a decoder's answer `i` to `w`. -/
def Instr.HasWord (i : Instr) (w : Word) : Prop := i.wellFormed = true ∧ encodeWord i = w

section Fields

variable {w : Word} {g : Nib} (hg : groupOf w = g)
include hg

theorem formatA_of_groupOf : formatA g (fieldNNN w) = w := hg ▸ (word_eq_formatA w).symm

theorem formatI_of_groupOf : formatI g (fieldX w) (fieldNN w) = w := hg ▸ (word_eq_formatI w).symm

theorem formatR_of_groupOf {n : Nib} (hn : fieldN w = n) : formatR g (fieldX w) (fieldY w) n = w :=
  hg ▸ hn ▸ (word_eq_formatR w).symm

theorem formatF_of_groupOf {nn : Byte} (hnn : fieldNN w = nn) : formatF g (fieldX w) nn = w :=
  hnn ▸ formatI_of_groupOf hg

end Fields

/-- Group 0: the two words with an instruction of their own are taken out of SYS (30_encoding.md R93). -/
theorem decodeGroup0_hasWord {w : Word} (hg : groupOf w = 0x0#4) : (decodeGroup0 (fieldNNN w)).HasWord w := by
  have hw := formatA_of_groupOf hg
  unfold decodeGroup0
  split_ifs with hcls hret
  · exact ⟨rfl, by rw [← hw, hcls]; rfl⟩
  · exact ⟨rfl, by rw [← hw, hret]; rfl⟩
  · exact ⟨by simp [Instr.wellFormed, sysOperandOk, hcls, hret], hw⟩

theorem decodeGroup8_hasWord {w : Word} {i : Instr} (hg : groupOf w = 0x8#4)
    (h : decodeGroup8 (fieldX w) (fieldY w) (fieldN w) = .ok i) : i.HasWord w := by
  unfold decodeGroup8 at h
  split_ifs at h <;> cases h <;> exact ⟨rfl, formatR_of_groupOf hg ‹_›⟩

theorem decodeGroupE_hasWord {w : Word} {i : Instr} (hg : groupOf w = 0xE#4)
    (h : decodeGroupE (fieldX w) (fieldNN w) = .ok i) : i.HasWord w := by
  unfold decodeGroupE at h
  split_ifs at h <;> cases h <;> exact ⟨rfl, formatF_of_groupOf hg ‹_›⟩

theorem decodeGroupF_hasWord {w : Word} {i : Instr} (hg : groupOf w = 0xF#4)
    (h : decodeGroupF (fieldX w) (fieldNN w) = .ok i) : i.HasWord w := by
  unfold decodeGroupF at h
  split_ifs at h <;> cases h <;> exact ⟨rfl, formatF_of_groupOf hg ‹_›⟩

/-- The sixteen opcode groups (30_encoding.md R91). -/
theorem group_cases (g : Nib) :
    g = 0x0#4 ∨ g = 0x1#4 ∨ g = 0x2#4 ∨ g = 0x3#4 ∨ g = 0x4#4 ∨ g = 0x5#4 ∨ g = 0x6#4 ∨ g = 0x7#4 ∨
    g = 0x8#4 ∨ g = 0x9#4 ∨ g = 0xA#4 ∨ g = 0xB#4 ∨ g = 0xC#4 ∨ g = 0xD#4 ∨ g = 0xE#4 ∨ g = 0xF#4 := by
  revert g; decide

/-- The dispatch, its group known (30_encoding.md R94). -/
theorem decodeWord_of_groupOf {w : Word} {g : Nib} (hg : groupOf w = g) :
    decodeWord w = decodeFields g (fieldX w) (fieldY w) (fieldN w) (fieldNN w) (fieldNNN w) := hg ▸ rfl

/-- The dispatch of a group with one instruction only, the one whose low nibble is 0 (30_encoding.md R94). -/
theorem eq_of_ite_eq_ok {c : Prop} [Decidable c] {i j : Instr} {r : Reject}
    (h : (if c then Except.ok j else .error r) = Except.ok i) : c ∧ j = i := by
  split at h <;> cases h
  exact ⟨‹c›, rfl⟩

/-- A decoded instruction is well-formed and has the word it was decoded from: every branch of the dispatch compares
all the bits its row fixes and keeps all the others (30_encoding.md R94). The goals below are the groups 0 to F in
order. -/
theorem hasWord_of_decodeWord {w : Word} {i : Instr} (h : decodeWord w = .ok i) : i.HasWord w := by
  rcases group_cases (groupOf w) with
    hg | hg | hg | hg | hg | hg | hg | hg | hg | hg | hg | hg | hg | hg | hg | hg <;>
  rw [decodeWord_of_groupOf hg] at h
  · obtain rfl := Except.ok.inj h; exact decodeGroup0_hasWord hg
  · obtain rfl := Except.ok.inj h; exact ⟨rfl, formatA_of_groupOf hg⟩
  · obtain rfl := Except.ok.inj h; exact ⟨rfl, formatA_of_groupOf hg⟩
  · obtain rfl := Except.ok.inj h; exact ⟨rfl, formatI_of_groupOf hg⟩
  · obtain rfl := Except.ok.inj h; exact ⟨rfl, formatI_of_groupOf hg⟩
  · obtain ⟨hn, rfl⟩ := eq_of_ite_eq_ok h; exact ⟨rfl, formatR_of_groupOf hg hn⟩
  · obtain rfl := Except.ok.inj h; exact ⟨rfl, formatI_of_groupOf hg⟩
  · obtain rfl := Except.ok.inj h; exact ⟨rfl, formatI_of_groupOf hg⟩
  · exact decodeGroup8_hasWord hg h
  · obtain ⟨hn, rfl⟩ := eq_of_ite_eq_ok h; exact ⟨rfl, formatR_of_groupOf hg hn⟩
  · obtain rfl := Except.ok.inj h; exact ⟨rfl, formatA_of_groupOf hg⟩
  · obtain rfl := Except.ok.inj h; exact ⟨rfl, formatA_of_groupOf hg⟩
  · obtain rfl := Except.ok.inj h; exact ⟨rfl, formatI_of_groupOf hg⟩
  · obtain rfl := Except.ok.inj h; exact ⟨rfl, formatR_of_groupOf hg rfl⟩
  · exact decodeGroupE_hasWord hg h
  · exact decodeGroupF_hasWord hg h

/-- Settles O6: two bytes are consumed, and they are the bytes of the word of the instruction they decode to. -/
theorem encodeOfDecodeIsTheBytes : Obligations.EncodeOfDecodeIsTheBytes := by
  intro bytes rest i h
  match bytes with
  | [] | [_] => cases h
  | hi :: lo :: tail =>
    rw [decode_two] at h
    cases hd : decodeWord (wordOfBytes hi lo) with
    | error r => rw [hd] at h; cases h
    | ok j =>
      rw [hd] at h
      cases h
      obtain ⟨hwf, hword⟩ := hasWord_of_decodeWord hd
      have hbytes : encode i = [hi, lo] := by rw [encode, hword, bytesOfWord_wordOfBytes]
      exact ⟨hwf, by rw [hbytes]; rfl⟩

end Sys2Proof

namespace Sys2Proof

/-! ### The opcode map (30_encoding.md R93, R96) -/

theorem decodeWord_of_hasWord {i : Instr} {w : Word} (h : i.HasWord w) : decodeWord w = .ok i := by
  obtain ⟨hwf, hword⟩ := h
  rw [← hword, decodeWord_encodeWord hwf]

/-! #### The mask of each format keeps its fixed fields -/

theorem formatA_and_mask (g : Nib) (nnn : Addr12) : formatA g nnn &&& 0xF000#16 = formatA g 0#12 := by
  show g ++ nnn &&& BitVec.allOnes 4 ++ 0#12 = g ++ 0#12
  rw [BitVec.and_append, BitVec.and_allOnes, BitVec.and_zero]

theorem formatI_and_mask (g x : Nib) (nn : Byte) : formatI g x nn &&& 0xF000#16 = formatI g 0#4 0#8 := by
  show g ++ x ++ nn &&& BitVec.allOnes 4 ++ 0#4 ++ 0#8 = g ++ 0#4 ++ 0#8
  simp only [BitVec.and_append, BitVec.and_allOnes, BitVec.and_zero]

theorem formatF_and_mask (g x : Nib) (nn : Byte) : formatF g x nn &&& 0xF0FF#16 = formatF g 0#4 nn := by
  show g ++ x ++ nn &&& BitVec.allOnes 4 ++ 0#4 ++ BitVec.allOnes 8 = g ++ 0#4 ++ nn
  simp only [BitVec.and_append, BitVec.and_allOnes, BitVec.and_zero]

theorem formatR_and_mask (g x y n : Nib) : formatR g x y n &&& 0xF00F#16 = formatR g 0#4 0#4 n := by
  show g ++ x ++ y ++ n &&& BitVec.allOnes 4 ++ 0#4 ++ 0#4 ++ BitVec.allOnes 4 = g ++ 0#4 ++ 0#4 ++ n
  simp only [BitVec.and_append, BitVec.and_allOnes, BitVec.and_zero]

theorem formatR_and_group_mask (g x y n : Nib) : formatR g x y n &&& 0xF000#16 = formatR g 0#4 0#4 0#4 := by
  show g ++ x ++ y ++ n &&& BitVec.allOnes 4 ++ 0#4 ++ 0#4 ++ 0#4 = g ++ 0#4 ++ 0#4 ++ 0#4
  simp only [BitVec.and_append, BitVec.and_allOnes, BitVec.and_zero]

/-- The word of an instruction lies in the instruction's row (30_encoding.md R93). -/
theorem encodeWord_and_mask (i : Instr) : encodeWord i &&& i.maskMatch.1 = i.maskMatch.2 := by
  cases i with
  | cls | ret => rfl
  | sys | jp | call | ldI | jpV0 => exact formatA_and_mask _ _
  | seImm | sneImm | ldImm | addImm | rnd => exact formatI_and_mask _ _ _
  | seReg | sneReg | ldReg | orReg | andReg | xorReg | addReg | subReg | shr | subn | shl =>
    exact formatR_and_mask _ _ _ _
  | drw => exact formatR_and_group_mask _ _ _ _
  | skp | sknp | ldVxDt | ldVxK | ldDtVx | ldStVx | addI | ldF | ldB | ldMemVx | ldVxMem =>
    exact formatF_and_mask _ _ _

/-! #### A word in a row has the fields that the row's mask selects -/

section Masked

variable {w mask m : Word} (h : w &&& mask = m)
include h

theorem groupOf_of_and (hmask : groupOf mask = BitVec.allOnes 4) : groupOf w = groupOf m := by
  rw [← h, groupOf, groupOf, BitVec.extractLsb'_and]
  exact (hmask ▸ BitVec.and_allOnes).symm

theorem fieldN_of_and (hmask : fieldN mask = BitVec.allOnes 4) : fieldN w = fieldN m := by
  rw [← h, fieldN, fieldN, BitVec.extractLsb'_and]
  exact (hmask ▸ BitVec.and_allOnes).symm

theorem fieldNN_of_and (hmask : fieldNN mask = BitVec.allOnes 8) : fieldNN w = fieldNN m := by
  rw [← h, fieldNN, fieldNN, BitVec.extractLsb'_and]
  exact (hmask ▸ BitVec.and_allOnes).symm

end Masked

/-- The dispatch, its group and low nibble known. -/
theorem decodeWord_of_fieldN {w : Word} {g n : Nib} (hg : groupOf w = g) (hn : fieldN w = n) :
    decodeWord w = decodeFields g (fieldX w) (fieldY w) n (fieldNN w) (fieldNNN w) := hn ▸ decodeWord_of_groupOf hg

/-- The dispatch, its group and low byte known. -/
theorem decodeWord_of_fieldNN {w : Word} {g : Nib} {nn : Byte} (hg : groupOf w = g) (hnn : fieldNN w = nn) :
    decodeWord w = decodeFields g (fieldX w) (fieldY w) (fieldN w) nn (fieldNNN w) := hnn ▸ decodeWord_of_groupOf hg

/-- A word of group 0 is CLS, RET or SYS (30_encoding.md R94). -/
theorem decodeWord_group0 {w : Word} (hg : groupOf w = 0x0#4) :
    decodeWord w = .ok .cls ∧ w = 0x00E0#16 ∨ decodeWord w = .ok .ret ∧ w = 0x00EE#16 ∨
      ∃ nnn, decodeWord w = .ok (.sys nnn) := by
  have hword := decodeGroup0_hasWord hg
  have hdecode := decodeWord_of_hasWord hword
  rw [hdecode]
  obtain ⟨-, hw⟩ := hword
  unfold decodeGroup0 at hw ⊢
  split_ifs at hw ⊢
  · exact .inl ⟨rfl, hw.symm⟩
  · exact .inr (.inl ⟨rfl, hw.symm⟩)
  · exact .inr (.inr ⟨_, rfl⟩)

/-- Settles O7: a decoded instruction has the decoded word, which lies in its row; and the fields that a row's mask
selects are those its dispatch compares. -/
theorem wordSelectsItsOpcodeRow : Obligations.WordSelectsItsOpcodeRow := by
  refine ⟨fun w i h => ?_, fun w i h => ?_⟩
  · obtain ⟨-, hword⟩ := hasWord_of_decodeWord h
    rw [← hword, encodeWord_and_mask]
  · cases i <;> dsimp only [Instr.maskMatch] at h
    case cls | ret =>
      obtain rfl : w = _ := BitVec.and_allOnes.symm.trans h
      exact ⟨_, by decide, .inl rfl⟩
    case sys nnn =>
      obtain ⟨hd, hw⟩ | ⟨hd, hw⟩ | ⟨nnn, hd⟩ := decodeWord_group0 (groupOf_of_and h rfl)
      · exact ⟨_, hd, .inr ⟨rfl, .inl ⟨hw, rfl⟩⟩⟩
      · exact ⟨_, hd, .inr ⟨rfl, .inr ⟨hw, rfl⟩⟩⟩
      · exact ⟨_, hd, .inl rfl⟩
    case jp | call | ldI | jpV0 | seImm | sneImm | ldImm | addImm | rnd | drw =>
      exact ⟨_, decodeWord_of_groupOf (groupOf_of_and h rfl), .inl rfl⟩
    case seReg | sneReg | ldReg | orReg | andReg | xorReg | addReg | subReg | shr | subn | shl =>
      exact ⟨_, decodeWord_of_fieldN (groupOf_of_and h rfl) (fieldN_of_and h rfl), .inl rfl⟩
    case skp | sknp | ldVxDt | ldVxK | ldDtVx | ldStVx | addI | ldF | ldB | ldMemVx | ldVxMem =>
      exact ⟨_, decodeWord_of_fieldNN (groupOf_of_and h rfl) (fieldNN_of_and h rfl), .inl rfl⟩

end Sys2Proof

namespace Sys2Proof

/-! ### The unrecognized space (30_encoding.md R96) -/

/-- A dispatch that compares one pattern rejects what the pattern and the rest of the dispatch reject. -/
theorem exists_error_ite_ok {c : Prop} [Decidable c] {i : Instr} {e : Except Reject Instr} :
    (∃ r, (if c then .ok i else e) = .error r) ↔ ¬ c ∧ ∃ r, e = .error r := by
  split <;> simp [*]

theorem decodeGroup8_rejects_iff (x y n : Nib) :
    (∃ r, decodeGroup8 x y n = .error r) ↔ n ∈ [0x8#4, 0x9#4, 0xA#4, 0xB#4, 0xC#4, 0xD#4, 0xF#4] := by
  simp only [decodeGroup8, exists_error_ite_ok, Except.error.injEq, exists_eq', and_true]
  revert n; decide

theorem decodeGroupE_rejects_iff (x : Nib) (nn : Byte) :
    (∃ r, decodeGroupE x nn = .error r) ↔ nn ∉ [0x9E#8, 0xA1#8] := by
  simp [decodeGroupE, exists_error_ite_ok]

theorem decodeGroupF_rejects_iff (x : Nib) (nn : Byte) :
    (∃ r, decodeGroupF x nn = .error r) ↔
      nn ∉ [0x07#8, 0x0A#8, 0x15#8, 0x18#8, 0x1E#8, 0x29#8, 0x33#8, 0x55#8, 0x65#8] := by
  simp [decodeGroupF, exists_error_ite_ok]

/-- Settles O8: by the word's group; the ten groups that decode every word are in none of the five sets. -/
theorem unrecognizedSpaceIsExact : Obligations.UnrecognizedSpaceIsExact := by
  intro w
  rcases group_cases (groupOf w) with
    hg | hg | hg | hg | hg | hg | hg | hg | hg | hg | hg | hg | hg | hg | hg | hg <;>
  rw [decodeWord_of_groupOf hg, hg] <;>
  simp [decodeFields, exists_error_ite_ok, decodeGroup8_rejects_iff, decodeGroupE_rejects_iff, decodeGroupF_rejects_iff]

end Sys2Proof

namespace Sys2Proof.Machine

open Sys2Proof Host

/-! ### ERR is never read (10_state.md R37, 40_step_cycle.md R131) -/

/-- The state with other error flags. -/
def State.withErr (s : State) (e : BitVec 4) : State := { s with err := e }

theorem storeTransfer_withErr (advances : Bool) (x : Nib) (s : State) (e : BitVec 4) :
    storeTransfer advances x (s.withErr e) = (storeTransfer advances x s).withErr e := by
  have hloop (n : Nat) : storeRegs (s.withErr e) n = (storeRegs s n).withErr e :=
    List.foldl_hom (State.withErr · e) fun _ _ => rfl
  rw [storeTransfer, hloop]
  rfl

theorem loadTransfer_withErr (advances : Bool) (x : Nib) (s : State) (e : BitVec 4) :
    loadTransfer advances x (s.withErr e) = (loadTransfer advances x s).withErr e := by
  have hloop (n : Nat) : loadRegs (s.withErr e) n = (loadRegs s n).withErr e :=
    List.foldl_hom (State.withErr · e) fun _ _ => rfl
  rw [loadTransfer, hloop]
  rfl

/-- A CALL pushes or flags the overflow by sp alone (41_flow.md R143). -/
theorem pushCall_withErr (s : State) (e : BitVec 4) : ∃ e', pushCall (s.withErr e) = (pushCall s).withErr e' := by
  by_cases hroom : s.sp.val < 16
  · have hpush : pushCall s = s.push s.pc hroom := dif_pos hroom
    exact ⟨e, by rw [hpush]; exact dif_pos hroom⟩
  · have hflag : pushCall s = s.flag .stackOverflow := dif_neg hroom
    exact ⟨_, by rw [hflag]; exact dif_neg hroom⟩

/-- RET pops or flags the underflow by sp alone (41_flow.md R141). -/
theorem execRet_withErr {s t : State} (e : BitVec 4) (h : execRet s = .next t) :
    ∃ e', execRet (s.withErr e) = .next (t.withErr e') := by
  unfold execRet at h
  split at h <;> cases h
  · next hentry => exact ⟨e, dif_pos hentry⟩
  · next hempty => exact ⟨_, dif_neg hempty⟩

/-- CALL completes by its push, and NNN for pc (41_flow.md R143). -/
theorem exec_call (nnn : Addr12) (s : State) :
    exec (.call nnn) s = .next ((pushCall s).setPc (addrWord nnn)) := rfl

/-- No instruction reads ERR: the three that flag a condition only add its bit. -/
theorem exec_withErr {i : Instr} {s t : State} (e : BitVec 4) (h : exec i s = .next t) :
    ∃ e', exec i (s.withErr e) = .next (t.withErr e') := by
  cases i with
  | cls | jp | jpV0 | seImm | sneImm | seReg | sneReg | skp | sknp
  | ldImm | addImm | ldReg | orReg | andReg | xorReg | addReg | subReg | shr | subn | shl | rnd | drw
  | ldVxDt | ldVxK | ldDtVx | ldStVx | ldI | addI | ldF | ldB =>
    cases h
    exact ⟨e, rfl⟩
  | sys nnn =>
    cases h
    exact ⟨e ||| conditionMask .sysIgnored, rfl⟩
  | ret => exact execRet_withErr e h
  | call nnn =>
    cases h
    obtain ⟨e', hpush⟩ := pushCall_withErr s e
    exact ⟨e', by rw [exec_call, hpush]; rfl⟩
  | ldMemVx x =>
    cases h
    exact ⟨e, congrArg Outcome.next (storeTransfer_withErr _ x s e)⟩
  | ldVxMem x =>
    cases h
    exact ⟨e, congrArg Outcome.next (loadTransfer_withErr _ x s e)⟩

theorem execBytes_withErr {bytes : List Byte} {s t : State} (e : BitVec 4) (h : execBytes bytes s = .next t) :
    ∃ e', execBytes bytes (s.withErr e) = .next (t.withErr e') := by
  cases hd : decode bytes with
  | ok decoded =>
    rw [execBytes_ok hd] at h ⊢
    exact exec_withErr e h
  | error r =>
    rw [execBytes_error hd] at h ⊢
    cases h
    exact ⟨e ||| conditionMask .unknownOpcode, rfl⟩

/-- Neither the gate nor the choice between the three cases of a Step looks at ERR (40_step_cycle.md R120). -/
theorem stepOp_withErr {s t : State} {now : Nat} {rnd : Byte} (e : BitVec 4) (h : stepOp now rnd s = .next t) :
    ∃ e', stepOp now rnd (s.withErr e) = .next (t.withErr e') := by
  cases hv : s.vblankWait with
  | true =>
    rw [stepOp_vblank hv] at h
    cases h
    exact ⟨e, stepOp_vblank (s := s.withErr e) hv now rnd⟩
  | false =>
    cases hk : s.keyWait with
    | true =>
      rw [stepOp_key hv hk] at h
      cases h
      exact ⟨e, stepOp_key (s := s.withErr e) hv hk now rnd⟩
    | false =>
      rw [stepOp_normal hv hk] at h
      rw [stepOp_normal (s := s.withErr e) hv hk]
      exact execBytes_withErr e h

theorem release_withErr (k : Nib) (s : State) (e : BitVec 4) :
    release k (s.withErr e) = (release k s).withErr e :=
  (apply_ite (State.withErr · e) (s.keyWait = true) (endKeyWait (s.setKey k false)) (s.setKey k false)).symm

/-- Reset and Load overwrite ERR, and no other operation but Step can reach it. -/
theorem perform_withErr {op : Op} {s t : State} (e : BitVec 4) (h : perform op s = .next t) :
    ∃ e', perform op (s.withErr e) = .next (t.withErr e') := by
  cases op with
  | reset | load =>
    cases h
    exact ⟨_, rfl⟩
  | step now rnd => exact stepOp_withErr e h
  | vblankCheck | press =>
    cases h
    exact ⟨e, rfl⟩
  | release k =>
    cases h
    exact ⟨e, congrArg Outcome.next (release_withErr k s e)⟩

/-- Whichever operation is next, pending or free, it is the same one whatever ERR is. -/
theorem step_withErr {s t : State} (e : BitVec 4) (h : step s = .next t) :
    ∃ e', step (s.withErr e) = .next (t.withErr e') := by
  cases hops : s.inputs with
  | nil =>
    rw [step_nil hops] at h
    rw [step_nil (s := s.withErr e) hops]
    exact stepOp_withErr e h
  | cons op rest =>
    rw [step_cons hops] at h
    rw [step_cons (s := s.withErr e) hops]
    exact perform_withErr e h

/-- Settles O57: from the instructions up to the step, nothing looks at ERR. -/
theorem errorFlagsAreNeverRead : Obligations.ErrorFlagsAreNeverRead := fun _ _ e h => step_withErr e h

end Sys2Proof.Machine

namespace Sys2Proof.Machine

open Sys2Proof Host

/-! ### Error flags are sticky (60_exceptions.md R231) -/

/-- Every error flag of `s` is one of `t`. -/
def State.FlagsKept (s t : State) : Prop := ∀ b : Nat, s.err.getLsbD b = true → t.err.getLsbD b = true

theorem State.FlagsKept.of_eq {s t : State} (h : t.err = s.err) : s.FlagsKept t := fun _ hb => h ▸ hb

/-- Meeting an abnormal condition only adds a flag (00_scope.md R16). -/
theorem State.FlagsKept.of_flag {s t : State} {c : Condition} (h : t.err = (s.flag c).err) : s.FlagsKept t :=
  fun b hb => by rw [h, State.flag_err, BitVec.getLsbD_or, hb, Bool.true_or]

theorem execRet_flagsKept {s t : State} (e : execRet s = .next t) : s.FlagsKept t := by
  unfold execRet at e
  split at e <;> cases e
  · exact .of_eq rfl
  · exact .of_flag (c := .stackUnderflow) rfl

theorem pushCall_flagsKept (s : State) : s.FlagsKept (pushCall s) := by
  unfold pushCall
  split
  · exact .of_eq rfl
  · exact .of_flag (c := .stackOverflow) rfl

/-- An instruction leaves ERR alone or flags a condition. -/
theorem exec_flagsKept {i : Instr} {s t : State} (e : exec i s = .next t) : s.FlagsKept t := by
  cases i with
  | cls | jp | jpV0 | seImm | sneImm | seReg | sneReg | skp | sknp
  | ldImm | addImm | ldReg | orReg | andReg | xorReg | addReg | subReg | shr | subn | shl | rnd | drw
  | ldVxDt | ldVxK | ldDtVx | ldStVx | ldI | addI | ldF | ldB =>
    cases e
    exact .of_eq rfl
  | sys nnn =>
    cases e
    exact .of_flag (c := .sysIgnored) rfl
  | ret => exact execRet_flagsKept e
  | call nnn =>
    cases e
    exact pushCall_flagsKept s
  | ldMemVx x =>
    cases e
    exact .of_eq (by rw [storeTransfer_frame])
  | ldVxMem x =>
    cases e
    exact .of_eq (by rw [loadTransfer_frame])

theorem execBytes_flagsKept {bytes : List Byte} {s t : State} (e : execBytes bytes s = .next t) : s.FlagsKept t := by
  cases hd : decode bytes with
  | ok decoded =>
    rw [execBytes_ok hd] at e
    exact exec_flagsKept e
  | error r =>
    rw [execBytes_error hd] at e
    cases e
    exact .of_flag (c := .unknownOpcode) rfl

theorem stepOp_flagsKept {now : Nat} {rnd : Byte} {s t : State} (e : stepOp now rnd s = .next t) : s.FlagsKept t := by
  cases hv : s.vblankWait with
  | true =>
    rw [stepOp_vblank hv] at e
    cases e
    exact .of_eq rfl
  | false =>
    cases hk : s.keyWait with
    | true =>
      rw [stepOp_key hv hk] at e
      cases e
      exact .of_eq rfl
    | false =>
      rw [stepOp_normal hv hk] at e
      exact execBytes_flagsKept (s := { frameGate now s with rndIn := rnd }) e

theorem release_err (k : Nib) (s : State) : (release k s).err = s.err := by
  unfold release
  split <;> rfl

/-- Only Reset and Load clear flags (10_state.md R37). -/
theorem perform_flagsKept {op : Op} {s t : State} (hreset : ∀ now, op ≠ .reset now)
    (hload : ∀ bytes now, op ≠ .load bytes now) (e : perform op s = .next t) : s.FlagsKept t := by
  cases op with
  | reset now => exact absurd rfl (hreset now)
  | load bytes now => exact absurd rfl (hload bytes now)
  | step now rnd => exact stepOp_flagsKept e
  | vblankCheck | press =>
    cases e
    exact .of_eq rfl
  | release k =>
    cases e
    exact .of_eq (release_err k s)

/-- Settles O56: a pending operation that is neither Reset nor Load keeps every flag, and so does the free Step. -/
theorem errorFlagsAreSticky : Obligations.ErrorFlagsAreSticky := by
  intro s t e hreset hload
  cases hops : s.inputs with
  | nil =>
    rw [step_nil hops] at e
    exact stepOp_flagsKept (s := { s with tick := s.tick + 1 }) e
  | cons op rest =>
    rw [step_cons hops] at e
    have hnoReset (now : Nat) : op ≠ .reset now := fun h => hreset now rest (h ▸ hops)
    have hnoLoad (bytes : List Byte) (now : Nat) : op ≠ .load bytes now := fun h => hload bytes now rest (h ▸ hops)
    exact perform_flagsKept (s := { s with inputs := rest }) hnoReset hnoLoad e

/-! ### Which instruction writes which part of the state (10_state.md R43) -/

/-- The parts of the state but pc that an instruction may write, the latches each with what belongs to it. -/
structure Writes where
  v : Bool := false
  i : Bool := false
  stack : Bool := false
  sp : Bool := false
  dt : Bool := false
  st : Bool := false
  mem : Bool := false
  disp : Bool := false
  keyLatch : Bool := false
  vblankLatch : Bool := false
  err : Bool := false

/-- The "written by" column of the access matrix of 10_state.md R43, read by instruction. -/
def accessMatrix : Instr → Writes
  | .jp _ | .jpV0 _ | .seImm _ _ | .sneImm _ _ | .seReg _ _ | .sneReg _ _ | .skp _ | .sknp _ => { }
  | .ldImm _ _ | .addImm _ _ | .rnd _ _ | .ldReg _ _ | .orReg _ _ | .andReg _ _ | .xorReg _ _ => { v := true }
  | .addReg _ _ | .subReg _ _ | .shr _ _ | .subn _ _ | .shl _ _ | .ldVxDt _ | .ldVxMem _ => { v := true }
  | .ldI _ | .addI _ | .ldF _ => { i := true }
  | .ldDtVx _ => { dt := true }
  | .ldStVx _ => { st := true }
  | .ldB _ | .ldMemVx _ => { mem := true }
  | .cls => { disp := true }
  | .drw _ _ _ => { v := true, disp := true, vblankLatch := true }
  | .ldVxK _ => { keyLatch := true }
  | .ret => { sp := true, err := true }
  | .call _ => { stack := true, sp := true, err := true }
  | .sys _ => { err := true }

/-- The instruction changes pc and the parts that the access matrix lists for it, and nothing else. -/
theorem exec_eq_of_accessMatrix {i : Instr} {s t : State} (e : exec i s = .next t) :
    t = { s with
      pc := t.pc
      v := if (accessMatrix i).v then t.v else s.v
      i := if (accessMatrix i).i then t.i else s.i
      stack := if (accessMatrix i).stack then t.stack else s.stack
      sp := if (accessMatrix i).sp then t.sp else s.sp
      dt := if (accessMatrix i).dt then t.dt else s.dt
      st := if (accessMatrix i).st then t.st else s.st
      mem := if (accessMatrix i).mem then t.mem else s.mem
      disp := if (accessMatrix i).disp then t.disp else s.disp
      keyWait := if (accessMatrix i).keyLatch then t.keyWait else s.keyWait
      keyReg := if (accessMatrix i).keyLatch then t.keyReg else s.keyReg
      vblankWait := if (accessMatrix i).vblankLatch then t.vblankWait else s.vblankWait
      err := if (accessMatrix i).err then t.err else s.err } := by
  cases i with
  | cls | sys | jp | jpV0 | seImm | sneImm | seReg | sneReg | skp | sknp
  | ldImm | addImm | ldReg | orReg | andReg | xorReg | addReg | subReg | shr | subn | shl | rnd | drw
  | ldVxDt | ldVxK | ldDtVx | ldStVx | ldI | addI | ldF | ldB =>
    cases e
    rfl
  | ret =>
    rw [execRet_frame e]
    rfl
  | call nnn =>
    cases e
    rw [pushCall_frame]
    rfl
  | ldMemVx x =>
    cases e
    rw [storeTransfer_frame]
    rfl
  | ldVxMem x =>
    cases e
    rw [loadTransfer_frame]
    rfl

/-- A part that changes is one that is listed. -/
theorem listed_of_ne {α : Type} {listed : Bool} {new old : α} (h : new = if listed then new else old)
    (hne : new ≠ old) : listed = true := by
  cases listed with
  | true => rfl
  | false => exact absurd h hne

/-! #### The access matrix, read by part -/

theorem eq_of_writes_v {i : Instr} (h : (accessMatrix i).v = true) :
    (∃ x nn, i = .ldImm x nn ∨ i = .addImm x nn ∨ i = .rnd x nn) ∨
    (∃ x y, i = .ldReg x y ∨ i = .orReg x y ∨ i = .andReg x y ∨ i = .xorReg x y ∨ i = .addReg x y ∨
      i = .subReg x y ∨ i = .shr x y ∨ i = .subn x y ∨ i = .shl x y ∨ ∃ n, i = .drw x y n) ∨
    ∃ x, i = .ldVxDt x ∨ i = .ldVxMem x := by
  match i, h with
  | .ldImm x nn, _ | .addImm x nn, _ | .rnd x nn, _ => exact .inl ⟨x, nn, by simp⟩
  | .ldReg x y, _ | .orReg x y, _ | .andReg x y, _ | .xorReg x y, _ | .addReg x y, _ | .subReg x y, _
  | .shr x y, _ | .subn x y, _ | .shl x y, _ | .drw x y _, _ => exact .inr (.inl ⟨x, y, by simp⟩)
  | .ldVxDt x, _ | .ldVxMem x, _ => exact .inr (.inr ⟨x, by simp⟩)

theorem eq_of_writes_i {i : Instr} (h : (accessMatrix i).i = true) :
    (∃ nnn, i = .ldI nnn) ∨ ∃ x, i = .addI x ∨ i = .ldF x := by
  match i, h with
  | .ldI nnn, _ => exact .inl ⟨nnn, rfl⟩
  | .addI x, _ | .ldF x, _ => exact .inr ⟨x, by simp⟩

theorem eq_of_writes_stack {i : Instr} (h : (accessMatrix i).stack = true) : ∃ nnn, i = .call nnn := by
  match i, h with
  | .call nnn, _ => exact ⟨nnn, rfl⟩

theorem eq_of_writes_sp {i : Instr} (h : (accessMatrix i).sp = true) : i = .ret ∨ ∃ nnn, i = .call nnn := by
  match i, h with
  | .ret, _ => exact .inl rfl
  | .call nnn, _ => exact .inr ⟨nnn, rfl⟩

theorem eq_of_writes_dt {i : Instr} (h : (accessMatrix i).dt = true) : ∃ x, i = .ldDtVx x := by
  match i, h with
  | .ldDtVx x, _ => exact ⟨x, rfl⟩

theorem eq_of_writes_st {i : Instr} (h : (accessMatrix i).st = true) : ∃ x, i = .ldStVx x := by
  match i, h with
  | .ldStVx x, _ => exact ⟨x, rfl⟩

theorem eq_of_writes_mem {i : Instr} (h : (accessMatrix i).mem = true) : ∃ x, i = .ldB x ∨ i = .ldMemVx x := by
  match i, h with
  | .ldB x, _ | .ldMemVx x, _ => exact ⟨x, by simp⟩

theorem eq_of_writes_disp {i : Instr} (h : (accessMatrix i).disp = true) : i = .cls ∨ ∃ x y n, i = .drw x y n := by
  match i, h with
  | .cls, _ => exact .inl rfl
  | .drw x y n, _ => exact .inr ⟨x, y, n, rfl⟩

theorem eq_of_writes_keyLatch {i : Instr} (h : (accessMatrix i).keyLatch = true) : ∃ x, i = .ldVxK x := by
  match i, h with
  | .ldVxK x, _ => exact ⟨x, rfl⟩

theorem eq_of_writes_vblankLatch {i : Instr} (h : (accessMatrix i).vblankLatch = true) :
    ∃ x y n, i = .drw x y n := by
  match i, h with
  | .drw x y n, _ => exact ⟨x, y, n, rfl⟩

theorem eq_of_writes_err {i : Instr} (h : (accessMatrix i).err = true) :
    i = .ret ∨ ∃ nnn, i = .call nnn ∨ i = .sys nnn := by
  match i, h with
  | .ret, _ => exact .inl rfl
  | .call nnn, _ | .sys nnn, _ => exact .inr ⟨nnn, by simp⟩

/-- Settles O53: a part that changes is listed for the instruction, and the matrix lists the part for no other. -/
theorem onlyTheListedInstructionsWrite : Obligations.OnlyTheListedInstructionsWrite := by
  intro i s t e
  have h := exec_eq_of_accessMatrix e
  refine ⟨fun hne => eq_of_writes_v (listed_of_ne (congrArg State.v h) hne),
    fun hne => eq_of_writes_i (listed_of_ne (congrArg State.i h) hne),
    fun hne => eq_of_writes_stack (listed_of_ne (congrArg State.stack h) hne),
    fun hne => eq_of_writes_sp (listed_of_ne (congrArg State.sp h) hne),
    fun hne => eq_of_writes_dt (listed_of_ne (congrArg State.dt h) hne),
    fun hne => eq_of_writes_st (listed_of_ne (congrArg State.st h) hne),
    by rw [h], by rw [h], by rw [h],
    fun hne => eq_of_writes_mem (listed_of_ne (congrArg State.mem h) hne),
    fun hne => eq_of_writes_disp (listed_of_ne (congrArg State.disp h) hne), fun hne => ?_,
    fun hne => eq_of_writes_vblankLatch (listed_of_ne (congrArg State.vblankWait h) hne),
    fun hne => eq_of_writes_err (listed_of_ne (congrArg State.err h) hne)⟩
  rcases hne with hwait | hreg
  · exact eq_of_writes_keyLatch (listed_of_ne (congrArg State.keyWait h) hwait)
  · exact eq_of_writes_keyLatch (listed_of_ne (congrArg State.keyReg h) hreg)

/-! ### How each instruction changes pc (10_state.md R24, 40_step_cycle.md R127) -/

/-- A skip advances pc by 4 or by 2 (10_state.md R24(b)). -/
theorem State.skipIf_pc_cases (s : State) (c : Bool) :
    (s.skipIf c).pc = s.pc + 4#16 ∨ (s.skipIf c).pc = s.pc + 2#16 := by
  cases c with
  | true => exact .inl rfl
  | false => exact .inr rfl

/-- RET goes behind the call whose address it pops, or on an empty stack to the next instruction (41_flow.md R141). -/
theorem execRet_pc {s t : State} (e : execRet s = .next t) :
    (∃ h : 0 < s.sp.val, t.pc = s.slot ⟨s.sp.val - 1, by omega⟩ + 2#16) ∨ s.sp.val = 0 ∧ t.pc = s.pc + 2#16 := by
  unfold execRet at e
  split at e <;> cases e
  · next hentry => exact .inl ⟨hentry, rfl⟩
  · next hempty => exact .inr ⟨Nat.eq_zero_of_not_pos hempty, rfl⟩

/-- Settles O55: the jumps, RET, the key wait and the skips each by their own rule, all others by the advance. -/
theorem pcAfterEachInstruction : Obligations.PcAfterEachInstruction := by
  intro i s t e
  cases i with
  | jp nnn =>
    cases e
    exact .inl ⟨nnn, .inl rfl, addrWord_toNat nnn⟩
  | call nnn =>
    cases e
    exact .inl ⟨nnn, .inr rfl, addrWord_toNat nnn⟩
  | jpV0 nnn =>
    cases e
    exact .inr (.inl ⟨nnn, rfl, offsetTarget_toNat _ nnn⟩)
  | ret =>
    rcases execRet_pc e with hpopped | ⟨hempty, hpc⟩
    · exact .inr (.inr (.inl ⟨rfl, hpopped⟩))
    · exact .inr (.inr (.inr (.inr (.inr ⟨fun _ => ⟨nofun, nofun, nofun⟩, nofun, fun _ => hempty, hpc⟩))))
  | ldVxK x =>
    cases e
    exact .inr (.inr (.inr (.inl ⟨⟨x, rfl⟩, rfl⟩)))
  | seImm | sneImm | seReg | sneReg | skp | sknp =>
    cases e
    rcases State.skipIf_pc_cases s _ with hskip | hpc
    · exact .inr (.inr (.inr (.inr (.inl ⟨by simp, hskip⟩))))
    · exact .inr (.inr (.inr (.inr (.inr ⟨fun _ => ⟨nofun, nofun, nofun⟩, nofun, nofun, hpc⟩))))
  | cls | sys
  | ldImm | addImm | ldReg | orReg | andReg | xorReg | addReg | subReg | shr | subn | shl | rnd | drw
  | ldVxDt | ldDtVx | ldStVx | ldI | addI | ldF | ldB =>
    cases e
    exact .inr (.inr (.inr (.inr (.inr ⟨fun _ => ⟨nofun, nofun, nofun⟩, nofun, nofun, rfl⟩))))
  | ldMemVx x =>
    cases e
    refine .inr (.inr (.inr (.inr (.inr ⟨fun _ => ⟨nofun, nofun, nofun⟩, nofun, nofun, ?_⟩))))
    rw [storeTransfer_frame]
  | ldVxMem x =>
    cases e
    refine .inr (.inr (.inr (.inr (.inr ⟨fun _ => ⟨nofun, nofun, nofun⟩, nofun, nofun, ?_⟩))))
    rw [loadTransfer_frame]

end Sys2Proof.Machine

namespace Sys2Proof.Machine

open Sys2Proof Laws

/-! ### Drawing (45_display.md R191, R192) -/

/-- The cells that `SpriteAt` names are the visible ones among those the draw covers. -/
theorem spriteAt_iff (s : State) (x y n : Nib) (cx cy : Nat) :
    SpriteAt s x y n cx cy ↔
      (spriteCovers s (startColumn (s.getV x)) (startRow (s.getV y)) n.toNat cx cy && onScreen cx cy) = true := by
  simp only [spriteCovers, rowCovers, onScreen, Bool.and_eq_true, decide_eq_true_eq]
  simp only [SpriteAt, spriteBit, startColumn, startRow, State.effAddr, State.memRead_maskAddr]
  tauto

/-- The state a DRW leaves: the drawn sprite's cells and collision flag (45_display.md R191). -/
def drawn (x y n : Nib) (s : State) : State :=
  finishDraw s (drawSprite s (startColumn (s.getV x)) (startRow (s.getV y)) n.toNat)

theorem exec_drw (x y n : Nib) (s : State) : exec (.drw x y n) s = .next (drawn x y n s) := rfl

theorem drawn_cell_of_spriteAt {x y n : Nib} {s : State} {cx cy : Nat} (h : SpriteAt s x y n cx cy) :
    (drawn x y n s).disp.cell cx cy = !s.disp.cell cx cy := by
  rw [spriteAt_iff] at h
  rw [drawn, finishDraw_frame, drawSprite_cell, h, Bool.xor_true]

theorem drawn_cell_of_not_spriteAt {x y n : Nib} {s : State} {cx cy : Nat} (h : ¬ SpriteAt s x y n cx cy) :
    (drawn x y n s).disp.cell cx cy = s.disp.cell cx cy := by
  rw [spriteAt_iff, Bool.not_eq_true] at h
  rw [drawn, finishDraw_frame, drawSprite_cell, h, Bool.xor_false]

/-- A collision is a set sprite bit on a cell that is 1, and such a cell is visible. -/
theorem drawSprite_hit_iff_spriteAt (x y n : Nib) (s : State) :
    (drawSprite s (startColumn (s.getV x)) (startRow (s.getV y)) n.toNat).2 = true ↔
      ∃ cx cy, SpriteAt s x y n cx cy ∧ s.disp.cell cx cy = true := by
  simp only [drawSprite_hit, spriteAt_iff, Bool.and_eq_true]
  have hvisible {cx cy : Nat} (hcell : s.disp.cell cx cy = true) : onScreen cx cy = true := by
    by_contra hoff
    exact Bool.false_ne_true ((s.disp.cell_off_screen (Bool.eq_false_of_not_eq_true hoff)).symm.trans hcell)
  exact ⟨fun ⟨cx, cy, hcovers, hcell⟩ => ⟨cx, cy, ⟨hcovers, hvisible hcell⟩, hcell⟩,
    fun ⟨cx, cy, ⟨hcovers, _⟩, hcell⟩ => ⟨cx, cy, hcovers, hcell⟩⟩

theorem drawn_getV (x y n : Nib) (s : State) (z : Nib) :
    (drawn x y n s).getV z =
      if z = vf then flagValue (drawSprite s (startColumn (s.getV x)) (startRow (s.getV y)) n.toNat).2
      else s.getV z := finishDraw_getV s _ z

theorem drawn_getV_vf (x y n : Nib) (s : State) :
    (drawn x y n s).getV vf =
      flagValue (drawSprite s (startColumn (s.getV x)) (startRow (s.getV y)) n.toNat).2 := by
  rw [drawn_getV, if_pos rfl]

theorem drawn_vf_of_hit {x y n : Nib} {s : State} (h : ∃ cx cy, SpriteAt s x y n cx cy ∧ s.disp.cell cx cy = true) :
    (drawn x y n s).getV vf = 1#8 := by
  rw [drawn_getV_vf, (drawSprite_hit_iff_spriteAt x y n s).mpr h]
  rfl

theorem drawn_vf_of_no_hit {x y n : Nib} {s : State}
    (h : ¬ ∃ cx cy, SpriteAt s x y n cx cy ∧ s.disp.cell cx cy = true) : (drawn x y n s).getV vf = 0#8 := by
  rw [← drawSprite_hit_iff_spriteAt, Bool.not_eq_true] at h
  rw [drawn_getV_vf, h]
  rfl

theorem drawn_vf_iff (x y n : Nib) (s : State) :
    (drawn x y n s).getV vf = 1#8 ↔ ∃ cx cy, SpriteAt s x y n cx cy ∧ s.disp.cell cx cy = true := by
  refine ⟨fun h => ?_, drawn_vf_of_hit⟩
  by_contra hmiss
  exact absurd ((drawn_vf_of_no_hit hmiss).symm.trans h) (by decide)

/-- A draw changes VF, the cells, the vblank wait and pc only. -/
theorem drawn_frame (x y n : Nib) (s : State) :
    Frame { regs := [vf], vblankLatch := true, disp := true } s (drawn x y n s) := by
  have hregs (r : Nib) (hr : r ∉ [vf]) : (drawn x y n s).getV r = s.getV r := by
    rw [drawn_getV, if_neg (List.ne_of_not_mem_cons hr)]
  exact Frame.of_update hregs (fun _ _ => rfl) rfl

/-- Settles O45: each visible cell under a set bit is toggled once, and VF is the collision of those cells. -/
theorem drawTogglesSpriteCells : Obligations.DrawTogglesSpriteCells := by
  intro x y n s
  have hdecode : decodeWord (formatR 0xD#4 x y n) = .ok (.drw x y n) := RoundTrip.drw x y n rfl
  exact ⟨hdecode, _, exec_drw x y n s, fun _ _ => drawn_cell_of_spriteAt,
    fun _ _ => drawn_cell_of_not_spriteAt, drawn_vf_of_hit, drawn_vf_of_no_hit, rfl, rfl, drawn_frame x y n s⟩

/-- What a DRW reads besides the cells determines where its set bits lie (45_display.md R192). -/
theorem SameDraw.spriteAt_iff {x y n : Nib} {s t : State} (h : SameDraw x y s t) (cx cy : Nat) :
    SpriteAt t x y n cx cy ↔ SpriteAt s x y n cx cy := by
  obtain ⟨hx, hy, hi, hmem⟩ := h
  rw [SpriteAt, SpriteAt, hx, hy, hi, hmem]

/-- A draw writes no register but VF, so it leaves what it read, unless VF is a coordinate (45_display.md R192). -/
theorem sameDraw_drawn {x y : Nib} (n : Nib) (s : State) (hx : x ≠ vf) (hy : y ≠ vf) :
    SameDraw x y s (drawn x y n s) :=
  ⟨by rw [drawn_getV, if_neg hx], by rw [drawn_getV, if_neg hy], rfl, fun _ => rfl⟩

/-- Settles O46: both draws toggle the same cells, once each; the second collides where the first found a 0. -/
theorem drawTwiceRestoresTheDisplay : Obligations.DrawTwiceRestoresTheDisplay := by
  intro x y n s
  refine ⟨_, exec_drw x y n s, drawn_vf_iff x y n s,
    fun hx hy => ⟨sameDraw_drawn n s hx hy, fun _ => sameDraw_drawn n s hx hy⟩, fun t' hsame hcells => ?_⟩
  refine ⟨_, exec_drw x y n t', fun cx cy => ?_, ?_⟩
  · by_cases hat : SpriteAt s x y n cx cy
    · rw [drawn_cell_of_spriteAt ((hsame.spriteAt_iff cx cy).mpr hat), hcells, drawn_cell_of_spriteAt hat, Bool.not_not]
    · rw [drawn_cell_of_not_spriteAt (mt (hsame.spriteAt_iff cx cy).mp hat), hcells, drawn_cell_of_not_spriteAt hat]
  · have hcollides (cx cy : Nat) : SpriteAt t' x y n cx cy ∧ t'.disp.cell cx cy = true ↔
        SpriteAt s x y n cx cy ∧ s.disp.cell cx cy = false := by
      rw [hsame.spriteAt_iff, hcells]
      refine and_congr_right fun hat => ?_
      rw [drawn_cell_of_spriteAt hat, Bool.not_eq_true']
    rw [drawn_vf_iff]
    simp only [hcollides]

end Sys2Proof.Machine

namespace Sys2Proof.Machine

open Sys2Proof Host

/-! ### The frame gate (47_frame_and_key_events.md R211, R212) -/

/-- Before the deadline the boundary does not count as reached (47_frame_and_key_events.md R211, D2). -/
theorem State.due_eq_false {s : State} {now : Nat} (h : now < s.deadline) : s.due now = false :=
  decide_eq_false (Nat.not_le.mpr h)

/-- A gate changes the timers, the vblank latch and the deadline only. -/
theorem frameGate_eq_update (now : Nat) (s : State) :
    frameGate now s = { s with
      dt := (frameGate now s).dt, st := (frameGate now s).st, vblankWait := (frameGate now s).vblankWait,
      deadline := (frameGate now s).deadline } := rfl

/-- Settles O14: a gate that is not due is idle; a due one is the due gate's law, whose deadline moves by
`(now - deadline) / FRAME_PERIOD + 1` periods. -/
theorem frameGateObservesTheBoundary : Obligations.FrameGateObservesTheBoundary := by
  intro now s
  refine ⟨fun hbefore => ⟨s.due_eq_false hbefore, frameGate_not_due hbefore⟩, fun hdue => ?_,
    frameGate_eq_update now s⟩
  obtain ⟨hdt, hst, hwait, hdeadline, hafter, hwithin⟩ := frameGate_due hdue
  exact ⟨(s.due_iff now).mpr hdue, ⟨_, Nat.succ_pos _, hdeadline⟩, hafter, hwithin, hdt, hst, hwait⟩

/-- Settles O15: VblankCheck is the gate by definition, and a gate before the deadline is idle. -/
theorem secondGateIsIdle : Obligations.SecondGateIsIdle := fun _ _ =>
  ⟨rfl, rfl, fun _ hbefore => frameGate_not_due hbefore⟩

/-- A due gate moves the deadline by at least one period. -/
theorem frameGate_deadline_ge (now : Nat) (s : State) :
    s.deadline + (if s.due now then 1 else 0) * Config.framePeriod ≤ (frameGate now s).deadline := by
  rw [frameGate_deadline]
  split
  · rw [catchUp, Nat.add_mul]
    omega
  · omega

/-- A run of gates moves the deadline by at least one period for each due one. -/
theorem gates_deadline_ge (readings : List Nat) (s : State) :
    s.deadline + dueCount readings s * Config.framePeriod ≤ (gates readings s).deadline := by
  induction readings generalizing s with
  | nil => simp [gates, dueCount]
  | cons now rest ih =>
    have hfirst := frameGate_deadline_ge now s
    have hrest := ih (frameGate now s)
    rw [gates, dueCount, Nat.add_mul]
    omega

/-- Settles O17: from the first deadline, one period after the Reset, the due gates have moved the deadline on by as
many periods at least, and the further gate is due only at that deadline. -/
theorem dueGatesNeedTime : Obligations.DueGatesNeedTime := by
  intro now0 now readings s hdue
  have hmoved := gates_deadline_ge readings (resetOp now0 s)
  have hreached := (State.due_iff _ now).mp hdue
  have hfirst : (resetOp now0 s).deadline = now0 + Config.framePeriod := rfl
  rw [Nat.add_mul, Nat.one_mul]
  omega

/-! ### Steps in the two waits (40_step_cycle.md R121, R122) -/

/-- The engine awaits vblank exactly if the vblank latch is set (10_state.md R35). -/
theorem State.engine_awaitingVblank {s : State} (h : s.engine = .awaitingVblank) : s.vblankWait = true := by
  unfold State.engine at h
  split at h
  · assumption
  · split at h <;> cases h

/-- The engine awaits a key only if the key latch is set and the vblank latch is not (10_state.md R35). -/
theorem State.engine_awaitingKey {s : State} {r : Nib} (h : s.engine = .awaitingKey r) :
    s.vblankWait = false ∧ s.keyWait = true ∧ s.keyReg = r := by
  unfold State.engine at h
  split at h
  · cases h
  · next hv =>
    split at h
    · next hk =>
      cases h
      exact ⟨Bool.eq_false_of_not_eq_true hv, hk, rfl⟩
    · cases h

theorem State.engine_eq_awaitingKey {s : State} (hv : s.vblankWait = false) (hk : s.keyWait = true) :
    s.engine = .awaitingKey s.keyReg := by
  simp [State.engine, hv, hk]

/-- In either wait a Step is its gate alone (40_step_cycle.md R121, R122). -/
theorem stepOp_of_not_normal {s : State} (h : s.engine ≠ .normal) (now : Nat) (rnd : Byte) :
    stepOp now rnd s = .next (frameGate now s) := by
  cases hv : s.vblankWait with
  | true => exact stepOp_vblank hv now rnd
  | false =>
    cases hk : s.keyWait with
    | true => exact stepOp_key hv hk now rnd
    | false => exact absurd (State.engine_eq_normal hv hk) h

/-- Settles O11: the Step is its gate, which is idle before the deadline and clears the wait from then on. -/
theorem awaitingVblankStepOnlyGates : Obligations.AwaitingVblankStepOnlyGates := by
  intro now rnd s hwait
  have hgate := stepOp_vblank (State.engine_awaitingVblank hwait) now rnd
  refine ⟨fun hbefore => hgate.trans (congrArg _ (frameGate_not_due hbefore)), fun hdue => ?_⟩
  obtain ⟨hdt, hst, hcleared, -, hafter, -⟩ := frameGate_due hdue
  exact ⟨_, hgate, hdt, hst, hcleared, hafter, frameGate_eq_update now s⟩

/-- Settles O12: the Step is its gate, which touches neither latch of a wait for a key. -/
theorem awaitingKeyStepOnlyGates : Obligations.AwaitingKeyStepOnlyGates := by
  intro now rnd s r hwait
  obtain ⟨hv, hk, rfl⟩ := State.engine_awaitingKey hwait
  have hgate := stepOp_key hv hk now rnd
  refine ⟨fun hbefore => hgate.trans (congrArg _ (frameGate_not_due hbefore)), fun hdue => ?_⟩
  obtain ⟨hdt, hst, hcleared, -, hafter, -⟩ := frameGate_due hdue
  have hlatch : (frameGate now s).vblankWait = s.vblankWait := hcleared.trans hv.symm
  refine ⟨_, hgate, State.engine_eq_awaitingKey hcleared hk, hdt, hst, hafter, ?_⟩
  conv_lhs => rw [frameGate_eq_update, hlatch]

/-! ### The keypad (47_frame_and_key_events.md R216, R217) -/

theorem State.key_setKey (s : State) (k j : Nib) (b : Bool) :
    (s.setKey k b).key j = if j = k then b else s.key j := by
  split
  · next h => rw [h, State.key_setKey_self]
  · next h => exact s.key_setKey_of_ne b h

/-- Settles O18: Press sets the key by `setKey`, and the latch. -/
theorem pressRecordsTheKey : Obligations.PressRecordsTheKey := fun k s =>
  ⟨rfl, rfl, fun j => s.key_setKey k j true, rfl⟩

/-- A Release outside a key wait clears the key only (47_frame_and_key_events.md R217). -/
theorem release_of_not_waiting {s : State} (h : s.keyWait = false) (k : Nib) : release k s = s.setKey k false :=
  if_neg (ne_true_of_eq_false h)

/-- A Release in a key wait also ends the wait (47_frame_and_key_events.md R217). -/
theorem release_of_waiting {s : State} (h : s.keyWait = true) (k : Nib) :
    release k s = endKeyWait (s.setKey k false) := if_pos h

/-- The end of a key wait writes `last_key` to the recorded register and no other. -/
theorem endKeyWait_getV (s : State) (r : Nib) :
    (endKeyWait s).getV r = if r = s.keyReg then s.lastKey.setWidth 8 else s.getV r := s.getV_setV _ r _

theorem release_keys (k : Nib) (s : State) : (release k s).keys = (s.setKey k false).keys := by
  unfold release
  split <;> rfl

/-- Settles O19: the key is cleared in both cases, and the wait's end is `endKeyWait`. -/
theorem releaseEndsTheKeyWait : Obligations.ReleaseEndsTheKeyWait := by
  intro k s
  have hkey (j : Nib) : (release k s).key j = if j = k then false else s.key j := by
    rw [State.key, release_keys]
    exact s.key_setKey k j false
  refine ⟨rfl, hkey, fun hwaiting => ?_, fun hwaiting => ?_⟩
  · rw [release_of_waiting hwaiting]
    exact ⟨endKeyWait_getV _, rfl⟩
  · rw [release_of_not_waiting hwaiting]
    rfl

end Sys2Proof.Machine

namespace Sys2Proof.Machine

open Sys2Proof Host

/-! ### Reset and Load (20_memory.md R70 to R72) -/

/-- A ROM that fits is copied into the reset core (20_memory.md R72). -/
theorem load_of_fits {bytes : List Byte} (h : bytes.length ≤ 3584) (now : Nat) (s : State) :
    load bytes now s = (copyBytes 0x200 bytes (resetOp now s), true) := if_pos h

/-- A ROM that does not fit leaves the reset core (20_memory.md R72). -/
theorem load_of_too_long {bytes : List Byte} (h : ¬ bytes.length ≤ 3584) (now : Nat) (s : State) :
    load bytes now s = (resetOp now s, false) := if_neg h

/-- Settles O2: the reset image read below and above its 80 font bytes, and the two cases of Load. -/
theorem memoryResetWritesTheFont : Obligations.MemoryResetWritesTheFont := by
  intro now s
  refine ⟨fun _ => resetOp_memRead_font now s, fun _ => resetOp_memRead_zero now s, fun bytes => ?_⟩
  split
  · next hfits => rw [load_of_fits hfits]
  · next hlong => rw [load_of_too_long hlong]

/-- Settles O3: `copyBytes` puts byte `i` of a ROM that fits at `0x200 + i` and changes memory alone. -/
theorem loadPlacesTheRom : Obligations.LoadPlacesTheRom := by
  intro bytes now s
  refine ⟨rfl, ⟨fun hloaded => ?_, fun hfits => ?_⟩, fun hfits => ?_, fun hlong => ?_⟩
  · by_contra hlong
    rw [load_of_too_long hlong] at hloaded
    cases hloaded
  · rw [load_of_fits hfits]
  · have hread := copyBytes_memRead bytes 0x200 (resetOp now s) Memory.wf_nil (by omega)
    rw [load_of_fits hfits]
    refine ⟨fun i hi => ?_, fun a ha hout => ?_, copyBytes_frame bytes 0x200 _⟩
    · rw [hread _ (by omega), if_pos (by omega), Nat.add_sub_cancel_left]
      rfl
    · rw [hread a ha, if_neg (by omega)]
  · rw [load_of_too_long (by omega)]

/-! ### The Step operation (40_step_cycle.md R120 to R124) -/

/-- Settles O10: both addresses go through the 12-bit mask, and the first byte is the word's high one. -/
theorem fetchIsBigEndianAndMasked : Obligations.FetchIsBigEndianAndMasked := fun _ =>
  ⟨rfl, fun hi lo => by rw [wordOfBytes_toNat, Nat.mul_comm]⟩

/-- Settles O9: the pending operation is performed or, where none is, the free Step; and a Normal Step executes the
instruction at pc in the state after its gate, also where the Step is one of those two. -/
theorem stepRunsTheDecodedInstruction : Obligations.StepRunsTheDecodedInstruction := by
  intro s
  refine ⟨fun op ops => step_cons, step_nil, fun _ _ => rfl, stepOp_of_not_normal, fun i rest hnormal hdecode => ?_⟩
  refine ⟨stepOp_of_decode hnormal hdecode, fun hnone => ?_, fun now rnd ops hpending => ?_⟩
  · rw [step_nil hnone]
    exact stepOp_of_decode (s := { s with tick := s.tick + 1 }) hnormal hdecode _ _
  · rw [step_cons hpending]
    exact stepOp_of_decode (s := { s with inputs := ops }) hnormal hdecode now rnd

/-! ### Flagged no-ops (41_flow.md R140, R141, R145) -/

/-- A flagged no-op changes ERR and pc only (60_exceptions.md R231). -/
theorem State.frame_flag_advance (s : State) (c : Condition) : Frame { err := true } s (s.flag c).advance :=
  Frame.of_update (fun _ _ => rfl) (fun _ _ => rfl) rfl

theorem execUnrecognized_eq (s : State) : execUnrecognized s = .next (s.flag .unknownOpcode).advance := rfl

/-- SYS completes as a flagged no-op (41_flow.md R140). -/
theorem exec_sys (nnn : Addr12) (s : State) : exec (.sys nnn) s = .next (s.flag .sysIgnored).advance := rfl

/-- Settles O13: bytes that decode to nothing run `execUnrecognized`, in a Normal Step on the state after its gate. -/
theorem unrecognizedWordIsAFlaggedNoOp : Obligations.UnrecognizedWordIsAFlaggedNoOp := by
  refine ⟨fun hi lo r s hdecode => ?_, fun now rnd r s hnormal hdecode => ?_⟩
  · rw [execBytes_error hdecode]
    exact ⟨_, execUnrecognized_eq s, rfl, rfl, s.frame_flag_advance .unknownOpcode⟩
  · obtain ⟨hv, hk⟩ := State.engine_normal hnormal
    rw [stepOp_normal hv hk, execBytes_error hdecode]
    exact ⟨_, execUnrecognized_eq (s.gated now rnd), rfl, rfl, (s.gated now rnd).frame_flag_advance .unknownOpcode⟩

/-- Settles O20: every word of group 0 but the two of CLS and RET is a well-formed SYS, a flagged no-op. -/
theorem sysIsAFlaggedNoOp : Obligations.SysIsAFlaggedNoOp := by
  intro nnn s
  have hdecode (hcls : nnn ≠ 0x0E0#12) (hret : nnn ≠ 0x0EE#12) :
      decodeWord (formatA 0x0#4 nnn) = .ok (.sys nnn) :=
    Laws.RoundTrip.sys nnn (by simp [Instr.wellFormed, sysOperandOk, hcls, hret])
  exact ⟨hdecode, _, exec_sys nnn s, rfl, rfl, s.frame_flag_advance .sysIgnored⟩

/-! ### CALL and RET (41_flow.md R141, R143) -/

/-- RET pops the address it returns behind (41_flow.md R141). -/
theorem exec_ret_of_entry {s : State} (h : 0 < s.sp.val) :
    exec .ret s = .next ((s.pop h).2.setPc ((s.pop h).1 + 2#16)) := dif_pos h

/-- RET on an empty stack is a flagged no-op (41_flow.md R141, D11). -/
theorem exec_ret_of_empty {s : State} (h : s.sp.val = 0) : exec .ret s = .next (s.flag .stackUnderflow).advance :=
  dif_neg (by omega)

/-- CALL pushes its own address where the stack has room (41_flow.md R143). -/
theorem exec_call_of_room {s : State} (h : s.sp.val < 16) (nnn : Addr12) :
    exec (.call nnn) s = .next ((s.push s.pc h).setPc (addrWord nnn)) := by
  rw [exec_call, pushCall, dif_pos h]

/-- CALL on a full stack flags the overflow and still jumps (41_flow.md R143, D10). -/
theorem exec_call_of_full {s : State} (h : s.sp.val = 16) (nnn : Addr12) :
    exec (.call nnn) s = .next ((s.flag .stackOverflow).setPc (addrWord nnn)) := by
  rw [exec_call, pushCall, dif_neg (by omega)]

/-- Settles O21: RET pops on a stack with an entry, and is a flagged no-op on an empty one. -/
theorem retPopsOrFlagsUnderflow : Obligations.RetPopsOrFlagsUnderflow := by
  intro s
  have hdecode : decodeWord 0x00EE#16 = .ok .ret := Laws.RoundTrip.ret rfl
  refine ⟨hdecode, fun hentry => ?_, fun hempty => ?_⟩
  · exact ⟨_, exec_ret_of_entry hentry, rfl, rfl, fun _ => rfl,
      Frame.of_update (fun _ _ => rfl) (fun _ _ => rfl) rfl⟩
  · exact ⟨_, exec_ret_of_empty hempty, rfl, rfl, s.frame_flag_advance .stackUnderflow⟩

/-- The slots after a push (10_state.md R26). -/
theorem State.slot_push (s : State) (a : Word) (h : s.sp.val < 16) (j : Fin 16) :
    (s.push a h).slot j = if j.val = s.sp.val then a else s.slot j := by
  split
  · next hj =>
    obtain rfl : j = ⟨s.sp.val, h⟩ := Fin.ext hj
    exact s.slot_push_self a h
  · next hj => exact s.slot_push_of_ne a h j hj

/-- Settles O23: CALL pushes where the stack has room and flags the overflow where it has none, and jumps in both
cases. -/
theorem callPushesOrFlagsOverflow : Obligations.CallPushesOrFlagsOverflow := by
  intro nnn s
  have hdecode : decodeWord (formatA 0x2#4 nnn) = .ok (.call nnn) := Laws.RoundTrip.call nnn rfl
  refine ⟨hdecode, fun hroom => ?_, fun hfull => ?_⟩
  · exact ⟨_, exec_call_of_room hroom nnn, rfl, addrWord_toNat nnn, s.slot_push s.pc hroom,
      Frame.of_update (fun _ _ => rfl) (fun _ _ => rfl) rfl⟩
  · exact ⟨_, exec_call_of_full hfull nnn, rfl, addrWord_toNat nnn,
      Frame.of_update (fun _ _ => rfl) (fun _ _ => rfl) rfl⟩

/-- Settles O24: the slot RET pops is the one CALL has just filled with its own address. -/
theorem retReturnsBehindTheCall : Obligations.RetReturnsBehindTheCall := by
  intro nnn s hroom
  have hentry : 0 < ((s.push s.pc hroom).setPc (addrWord nnn)).sp.val := Nat.succ_pos s.sp.val
  have hpc : (((s.push s.pc hroom).setPc (addrWord nnn)).pop hentry).1 = s.pc := s.slot_push_self s.pc hroom
  exact ⟨_, _, exec_call_of_room hroom nnn, exec_ret_of_entry hentry, congrArg (· + 2#16) hpc, rfl,
    s.slot_push_of_ne s.pc hroom, Frame.of_update (fun _ _ => rfl) (fun _ _ => rfl) rfl⟩

/-- Settles O25: JP V0 only writes pc, with the sum as a 16-bit value, which never wraps. -/
theorem jpV0AddsV0 : Obligations.JpV0AddsV0 := by
  intro nnn s
  have hdecode : decodeWord (formatA 0xB#4 nnn) = .ok (.jpV0 nnn) := Laws.RoundTrip.jpV0 nnn rfl
  exact ⟨hdecode, _, rfl, offsetTarget_toNat (s.getV 0x0#4) nnn, s.frame_setPc _⟩

/-! ### Skips on two registers (42_skip.md R152, R153) -/

/-- SE completes with a skip on Vx = Vy (42_skip.md R152). -/
theorem exec_seReg (x y : Nib) (s : State) : exec (.seReg x y) s = .next (s.skipIf (s.getV x == s.getV y)) := rfl

/-- SNE completes with a skip on Vx ≠ Vy (42_skip.md R153). -/
theorem exec_sneReg (x y : Nib) (s : State) : exec (.sneReg x y) s = .next (s.skipIf (s.getV x != s.getV y)) := rfl

/-- Group 5 is SE of two registers for the low nibble 0 only (30_encoding.md R94, D14). -/
theorem decodeWord_group5 (x y n : Nib) :
    decodeWord (formatR 0x5#4 x y n) = if n = 0x0#4 then .ok (.seReg x y) else .error .group5 := by
  obtain ⟨nn, nnn, hdispatch⟩ := decodeWord_formatR 0x5#4 x y n
  exact hdispatch

/-- Group 9 is SNE of two registers for the low nibble 0 only (30_encoding.md R94, D14). -/
theorem decodeWord_group9 (x y n : Nib) :
    decodeWord (formatR 0x9#4 x y n) = if n = 0x0#4 then .ok (.sneReg x y) else .error .group9 := by
  obtain ⟨nn, nnn, hdispatch⟩ := decodeWord_formatR 0x9#4 x y n
  exact hdispatch

/-- Settles O27: the dispatch of groups 5 and 9 compares the low nibble, and each instruction is a skip on the
comparison of the two registers. -/
theorem skipComparesRegisters : Obligations.SkipComparesRegisters := by
  intro x y s
  refine ⟨decodeWord_group5 x y, decodeWord_group9 x y,
    ⟨_, exec_seReg x y s, fun heq => ?_, fun hne => ?_, s.frame_skipIf _⟩,
    ⟨_, exec_sneReg x y s, fun hne => ?_, fun heq => ?_, s.frame_skipIf _⟩⟩
  · exact s.skipIf_pc_of_true (beq_iff_eq.mpr heq)
  · exact s.skipIf_pc_of_false (beq_eq_false_iff_ne.mpr hne)
  · exact s.skipIf_pc_of_true (bne_iff_ne.mpr hne)
  · exact s.skipIf_pc_of_false (bne_eq_false_iff_eq.mpr heq)

end Sys2Proof.Machine

namespace Sys2Proof.Machine

open Sys2Proof Laws

/-! ### Arithmetic with a flag (43_load_alu.md R163 to R170) -/

/-- A result and then the flag change Vx, VF and pc only. -/
theorem resultThenFlag_footprint (s : State) (x : Nib) (r f : Byte) :
    Frame { regs := [x, vf] } s (resultThenFlag s x r f) := by
  have hregs (z : Nib) (hz : z ∉ [x, vf]) : (resultThenFlag s x r f).getV z = s.getV z := by
    obtain ⟨hzx, hzvf⟩ : z ≠ x ∧ z ≠ vf := by simpa using hz
    rw [resultThenFlag_getV, if_neg hzvf, if_neg hzx]
  exact Frame.of_update hregs (fun _ _ => rfl) rfl

/-- The result stands in Vx unless X is F (D18). -/
theorem resultThenFlag_getV_result (s : State) {x : Nib} (r f : Byte) (hx : x ≠ vf) :
    (resultThenFlag s x r f).getV x = r := by
  rw [resultThenFlag_getV, if_neg hx, if_pos rfl]

/-- The flag stands in VF, whatever X is (D18). -/
theorem resultThenFlag_getV_vf (s : State) (x : Nib) (r f : Byte) : (resultThenFlag s x r f).getV vf = f := by
  rw [resultThenFlag_getV, if_pos rfl]

/-- Settles O32: each of the three is its bitwise result, then the flag 0. -/
theorem bitwiseClearsVF : Obligations.BitwiseClearsVF := by
  intro x y s
  have hor : decodeWord (formatR 0x8#4 x y 0x1#4) = .ok (.orReg x y) := RoundTrip.orReg x y rfl
  have hand : decodeWord (formatR 0x8#4 x y 0x2#4) = .ok (.andReg x y) := RoundTrip.andReg x y rfl
  have hxor : decodeWord (formatR 0x8#4 x y 0x3#4) = .ok (.xorReg x y) := RoundTrip.xorReg x y rfl
  have hresult (r : Byte) := resultThenFlag_getV_result s (x := x) r 0#8
  have hflag (r : Byte) := resultThenFlag_getV_vf s x r 0#8
  have hframe (r : Byte) := resultThenFlag_footprint s x r 0#8
  exact ⟨hor, hand, hxor, ⟨_, rfl, hresult _, hflag _, rfl, hframe _⟩, ⟨_, rfl, hresult _, hflag _, rfl, hframe _⟩,
    ⟨_, rfl, hresult _, hflag _, rfl, hframe _⟩⟩

/-- ADD completes with the 8-bit sum, then the carry (43_load_alu.md R166). -/
theorem exec_addReg (x y : Nib) (s : State) : exec (.addReg x y) s =
    .next (resultThenFlag s x (s.getV x + s.getV y) (carryFlag (s.getV x) (s.getV y))) := rfl

/-- SUB completes with Vx - Vy, then the no-borrow flag (43_load_alu.md R167). -/
theorem exec_subReg (x y : Nib) (s : State) : exec (.subReg x y) s =
    .next (resultThenFlag s x (s.getV x - s.getV y) (noBorrowFlag (s.getV x) (s.getV y))) := rfl

/-- SUBN completes with Vy - Vx, then the no-borrow flag (43_load_alu.md R169). -/
theorem exec_subn (x y : Nib) (s : State) : exec (.subn x y) s =
    .next (resultThenFlag s x (s.getV y - s.getV x) (noBorrowFlag (s.getV y) (s.getV x))) := rfl

theorem carryFlag_eq (a b : Byte) : carryFlag a b = if 255 < a.toNat + b.toNat then 1#8 else 0#8 := by
  simp [carryFlag, flagValue]

theorem noBorrowFlag_eq (a b : Byte) : noBorrowFlag a b = if b.toNat ≤ a.toNat then 1#8 else 0#8 := by
  simp [noBorrowFlag, flagValue]

theorem toNat_sub_wraps (a b : Byte) : (a - b).toNat = (a.toNat + 256 - b.toNat) % 256 := by
  rw [BitVec.toNat_sub]
  omega

/-- Settles O33: the 8-bit sum is the sum modulo 256, and the flag compares the true sum. -/
theorem addSetsCarry : Obligations.AddSetsCarry := by
  intro x y s
  have hdecode : decodeWord (formatR 0x8#4 x y 0x4#4) = .ok (.addReg x y) := RoundTrip.addReg x y rfl
  refine ⟨hdecode, _, exec_addReg x y s, fun hx => ?_, ?_, rfl, resultThenFlag_footprint s x _ _⟩
  · rw [resultThenFlag_getV_result s _ _ hx, BitVec.toNat_add]
  · rw [resultThenFlag_getV_vf, carryFlag_eq]

/-- Settles O34: the 8-bit difference is the difference modulo 256, and the flag compares the old values. -/
theorem subtractSetsNoBorrow : Obligations.SubtractSetsNoBorrow := by
  intro x y s
  have hsub : decodeWord (formatR 0x8#4 x y 0x5#4) = .ok (.subReg x y) := RoundTrip.subReg x y rfl
  have hsubn : decodeWord (formatR 0x8#4 x y 0x7#4) = .ok (.subn x y) := RoundTrip.subn x y rfl
  have hresult (a b f : Byte) (hx : x ≠ vf) :
      ((resultThenFlag s x (a - b) f).getV x).toNat = (a.toNat + 256 - b.toNat) % 256 := by
    rw [resultThenFlag_getV_result s _ _ hx, toNat_sub_wraps]
  have hflag (r a b : Byte) :
      (resultThenFlag s x r (noBorrowFlag a b)).getV vf = if b.toNat ≤ a.toNat then 1#8 else 0#8 := by
    rw [resultThenFlag_getV_vf, noBorrowFlag_eq]
  exact ⟨hsub, hsubn,
    ⟨_, exec_subReg x y s, hresult _ _ _, hflag _ _ _, rfl, resultThenFlag_footprint s x _ _⟩,
    ⟨_, exec_subn x y s, hresult _ _ _, hflag _ _ _, rfl, resultThenFlag_footprint s x _ _⟩⟩

/-! #### Shifts -/

/-- A copy, the flag and the shift change Vx, VF and pc only. -/
theorem copyFlagShift_footprint (s : State) (x y : Nib) (flagOf shift : Byte → Byte) :
    Frame { regs := [x, vf] } s (copyFlagShift s x y flagOf shift) := by
  have hregs (z : Nib) (hz : z ∉ [x, vf]) : (copyFlagShift s x y flagOf shift).getV z = s.getV z := by
    obtain ⟨hzx, hzvf⟩ : z ≠ x ∧ z ≠ vf := by simpa using hz
    rw [copyFlagShift_getV, if_neg hzx, if_neg hzvf]
  exact Frame.of_update hregs (fun _ _ => rfl) rfl

/-- With X other than F the shifted Vy stands in Vx and its flag in VF. -/
theorem copyFlagShift_getV_of_ne (s : State) {x : Nib} (y : Nib) (flagOf shift : Byte → Byte) (hx : x ≠ vf) :
    (copyFlagShift s x y flagOf shift).getV x = shift (s.getV y) ∧
    (copyFlagShift s x y flagOf shift).getV vf = flagOf (s.getV y) := by
  constructor
  · rw [copyFlagShift_getV, if_pos rfl, if_neg hx]
  · rw [copyFlagShift_getV, if_neg (Ne.symm hx), if_pos rfl]

/-- With X = F the flag overwrites the copied Vy, and is then shifted itself (D18). -/
theorem copyFlagShift_getV_vf (s : State) (y : Nib) (flagOf shift : Byte → Byte) :
    (copyFlagShift s vf y flagOf shift).getV vf = shift (flagOf (s.getV y)) := by
  rw [copyFlagShift_getV, if_pos rfl, if_pos rfl]

/-- SHR completes by copy, low-bit flag and right shift (43_load_alu.md R168). -/
theorem exec_shr (x y : Nib) (s : State) :
    exec (.shr x y) s = .next (copyFlagShift s x y lowBitFlag (· >>> 1)) := rfl

/-- SHL completes by copy, high-bit flag and left shift (43_load_alu.md R170). -/
theorem exec_shl (x y : Nib) (s : State) :
    exec (.shl x y) s = .next (copyFlagShift s x y highBitFlag (· <<< 1)) := rfl

theorem toNat_shiftRight_one (b : Byte) : (b >>> 1).toNat = b.toNat / 2 := by
  rw [BitVec.toNat_ushiftRight, Nat.shiftRight_eq_div_pow, pow_one]

theorem toNat_shiftLeft_one (b : Byte) : (b <<< 1).toNat = 2 * b.toNat % 256 := by
  rw [BitVec.toNat_shiftLeft, Nat.shiftLeft_eq, pow_one, Nat.mul_comm]

/-- Settles O35: off VF the two bytes are the shifted Vy and the bit shifted out; on VF that bit is shifted, which
loses bit 0 to the right and doubles bit 7 to the left. -/
theorem shiftsCopyVyFirst : Obligations.ShiftsCopyVyFirst := by
  intro x y s
  have hshr : decodeWord (formatR 0x8#4 x y 0x6#4) = .ok (.shr x y) := RoundTrip.shr x y rfl
  have hshl : decodeWord (formatR 0x8#4 x y 0xE#4) = .ok (.shl x y) := RoundTrip.shl x y rfl
  refine ⟨hshr, hshl,
    ⟨_, exec_shr x y s, fun hx => ?_, fun hx => ?_, rfl, copyFlagShift_footprint s x y _ _⟩,
    ⟨_, exec_shl x y s, fun hx => ?_, fun hx => ?_, rfl, copyFlagShift_footprint s x y _ _⟩⟩
  · obtain ⟨hvx, hvf⟩ := copyFlagShift_getV_of_ne s y lowBitFlag (· >>> 1) hx
    rw [hvx, hvf]
    exact ⟨toNat_shiftRight_one _, lowBitFlag_toNat _⟩
  · apply BitVec.eq_of_toNat_eq
    rw [hx, copyFlagShift_getV_vf, toNat_shiftRight_one, lowBitFlag_toNat]
    exact Nat.div_eq_of_lt (Nat.mod_lt _ Nat.two_pos)
  · obtain ⟨hvx, hvf⟩ := copyFlagShift_getV_of_ne s y highBitFlag (· <<< 1) hx
    rw [hvx, hvf]
    exact ⟨toNat_shiftLeft_one _, highBitFlag_toNat _⟩
  · rw [hx, copyFlagShift_getV_vf, toNat_shiftLeft_one, highBitFlag_toNat]
    omega

/-! ### Random (43_load_alu.md R171) -/

/-- RND completes by writing the masked random byte of its Step to Vx (43_load_alu.md R171). -/
theorem exec_rnd (x : Nib) (nn : Byte) (s : State) :
    exec (.rnd x nn) s = .next (s.setV x (s.rndIn &&& nn)).advance := rfl

/-- Settles O36: RND reads the latched byte, and a Normal Step latches its own byte before it executes. -/
theorem randomIsMaskedByNN : Obligations.RandomIsMaskedByNN := by
  intro x nn s
  have hdecode : decodeWord (formatI 0xC#4 x nn) = .ok (.rnd x nn) := RoundTrip.rnd x nn rfl
  refine ⟨hdecode, ⟨_, exec_rnd x nn s, s.getV_setV_advance_self x _, s.setV_advance_pc x _, s.frame_setV_advance x _⟩,
    fun now rnd rest hnormal hfetch => ?_⟩
  rw [stepOp_of_decode hnormal hfetch]
  exact ⟨_, exec_rnd x nn (s.gated now rnd), State.getV_setV_advance_self _ x _⟩

end Sys2Proof.Machine

namespace Sys2Proof.Machine

open Sys2Proof Laws

/-! ### Register transfers (44_index_memory.md R184, R185) -/

/-- FX55 completes by the transfer under this hardware's setting (44_index_memory.md R184, D15). -/
theorem exec_ldMemVx (x : Nib) (s : State) :
    exec (.ldMemVx x) s = .next (storeTransfer Config.loadStoreAdvancesI x s) := rfl

/-- FX65 completes by the transfer under this hardware's setting (44_index_memory.md R185, D15). -/
theorem exec_ldVxMem (x : Nib) (s : State) :
    exec (.ldVxMem x) s = .next (loadTransfer Config.loadStoreAdvancesI x s) := rfl

theorem storeTransfer_i (advances : Bool) (x : Nib) (s : State) :
    (storeTransfer advances x s).i = indexAfterTransfer advances s.i x := rfl

theorem loadTransfer_i (advances : Bool) (x : Nib) (s : State) :
    (loadTransfer advances x s).i = indexAfterTransfer advances s.i x := rfl

/-- FX55 of X leaves every byte alone but the `X + 1` at I onwards (44_index_memory.md R184). -/
theorem storeTransfer_memRead_of_not_mem (advances : Bool) {x : Nib} {s : State} (hwf : s.mem.wf = true) {a : Nat}
    (ha : maskAddr a ∉ (List.range (x.toNat + 1)).map s.effAddr) :
    (storeTransfer advances x s).memRead a = s.memRead a := by
  obtain ⟨-, hothers⟩ := storeRegs_memRead hwf (x.toNat + 1) x.isLt
  exact hothers a fun k hk he => ha (List.mem_map.mpr ⟨k, List.mem_range.mpr hk, he.symm⟩)

/-- Settles O41: the transfer writes the bytes at I onwards one by one, and under this hardware's setting leaves I. -/
theorem storeRegistersToMemory : Obligations.StoreRegistersToMemory := by
  intro x s hwf
  have hdecode : decodeWord (formatF 0xF#4 x 0x55#8) = .ok (.ldMemVx x) := RoundTrip.ldMemVx x rfl
  have hframe : Frame { mem := (List.range (x.toNat + 1)).map s.effAddr } s
      (storeTransfer Config.loadStoreAdvancesI x s) := by
    refine Frame.of_update (fun r _ => ?_) (fun _ => storeTransfer_memRead_of_not_mem _ hwf) ?_
    · exact storeRegs_getV s _ r
    · rw [storeTransfer_frame]
      rfl
  refine ⟨hdecode, ⟨_, exec_ldMemVx x s, rfl, fun r => storeTransfer_memRead_effAddr _ hwf, ?_, hframe⟩,
    exec_ldMemVx x s, fun advances => ?_⟩
  · rw [storeTransfer_frame]
  · rw [storeTransfer_i, indexAfterTransfer_toNat]

/-- FX65 of X gives each register up to X the byte at I onwards, and no other (44_index_memory.md R185). -/
theorem loadTransfer_getV (advances : Bool) (x r : Nib) (s : State) :
    (loadTransfer advances x s).getV r =
      if r.toNat ≤ x.toNat then s.memRead (s.i.toNat + r.toNat) else s.getV r := by
  have hread := loadRegs_getV s (x.toNat + 1) x.isLt r
  simp only [Nat.lt_succ_iff, State.effAddr, State.memRead_maskAddr] at hread
  exact hread

/-- Settles O42: the transfer writes the registers up to X one by one, and under this hardware's setting leaves I. -/
theorem loadRegistersFromMemory : Obligations.LoadRegistersFromMemory := by
  intro x s
  have hdecode : decodeWord (formatF 0xF#4 x 0x65#8) = .ok (.ldVxMem x) := RoundTrip.ldVxMem x rfl
  have hregs (r : Nib) (hr : r ∉ (List.range (x.toNat + 1)).map (BitVec.ofNat 4)) :
      (loadTransfer Config.loadStoreAdvancesI x s).getV r = s.getV r := by
    refine loadTransfer_getV_of_lt _ s (Nat.lt_of_not_le fun hle => hr (List.mem_map.mpr ⟨r.toNat, ?_, ?_⟩))
    · exact List.mem_range.mpr (Nat.lt_succ_of_le hle)
    · exact loopReg_of_toNat r
  have hframe : Frame { regs := (List.range (x.toNat + 1)).map (BitVec.ofNat 4) } s
      (loadTransfer Config.loadStoreAdvancesI x s) := by
    refine Frame.of_update hregs (fun a _ => loadRegs_memRead s _ a) ?_
    rw [loadTransfer_frame]
    rfl
  refine ⟨hdecode, ⟨_, exec_ldVxMem x s, rfl, fun r => loadTransfer_getV _ x r s, ?_, hframe⟩,
    exec_ldVxMem x s, fun advances => ?_⟩
  · rw [loadTransfer_frame]
  · rw [loadTransfer_i, indexAfterTransfer_toNat]

end Sys2Proof.Machine

namespace Sys2Proof.Machine

open Sys2Proof Laws

/-! ### Timers and the key wait (46_timer_key_instr.md) -/

/-- LD Vx, DT completes by writing DT to Vx (46_timer_key_instr.md R200). -/
theorem exec_ldVxDt (x : Nib) (s : State) : exec (.ldVxDt x) s = .next (s.setV x s.dt).advance := rfl

/-- LD DT, Vx completes by writing Vx to DT (46_timer_key_instr.md R202). -/
theorem exec_ldDtVx (x : Nib) (s : State) : exec (.ldDtVx x) s = .next { s with dt := s.getV x }.advance := rfl

/-- LD ST, Vx completes by writing Vx to ST (46_timer_key_instr.md R203). -/
theorem exec_ldStVx (x : Nib) (s : State) : exec (.ldStVx x) s = .next { s with st := s.getV x }.advance := rfl

/-- A write to DT, then the advance, changes DT and pc only. -/
theorem State.frame_dt_advance (s : State) (b : Byte) : Frame { dt := true } s { s with dt := b }.advance :=
  Frame.of_update (fun _ _ => rfl) (fun _ _ => rfl) rfl

/-- A write to ST, then the advance, changes ST and pc only. -/
theorem State.frame_st_advance (s : State) (b : Byte) : Frame { st := true } s { s with st := b }.advance :=
  Frame.of_update (fun _ _ => rfl) (fun _ _ => rfl) rfl

/-- Settles O48: each instruction is one move; in a due Step it moves in the state after the gate, where both timers
have gone down. -/
theorem timersMoveToAndFromVx : Obligations.TimersMoveToAndFromVx := by
  intro x s
  have hVxDt : decodeWord (formatF 0xF#4 x 0x07#8) = .ok (.ldVxDt x) := RoundTrip.ldVxDt x rfl
  have hDtVx : decodeWord (formatF 0xF#4 x 0x15#8) = .ok (.ldDtVx x) := RoundTrip.ldDtVx x rfl
  have hStVx : decodeWord (formatF 0xF#4 x 0x18#8) = .ok (.ldStVx x) := RoundTrip.ldStVx x rfl
  refine ⟨hVxDt, hDtVx, hStVx,
    ⟨_, exec_ldVxDt x s, s.getV_setV_advance_self x _, s.setV_advance_pc x _, s.frame_setV_advance x _⟩,
    ⟨_, exec_ldDtVx x s, rfl, rfl, s.frame_dt_advance _⟩, ⟨_, exec_ldStVx x s, rfl, rfl, s.frame_st_advance _⟩,
    fun now rnd rest hnormal hdue => ?_⟩
  obtain ⟨hdt, hst, -⟩ := frameGate_due hdue
  refine ⟨fun hfetch => ?_, fun hfetch => ?_, fun hfetch => ?_⟩ <;> rw [stepOp_of_decode hnormal hfetch]
  · refine ⟨_, exec_ldVxDt x (s.gated now rnd), ?_, hdt⟩
    rw [State.getV_setV_advance_self]
    exact hdt
  · exact ⟨_, exec_ldDtVx x (s.gated now rnd), rfl, hst⟩
  · exact ⟨_, exec_ldStVx x (s.gated now rnd), rfl, hdt⟩

/-- The state with the key wait entered for the register X (46_timer_key_instr.md R201). -/
def State.awaitKey (s : State) (x : Nib) : State := { s with keyWait := true, keyReg := x }

/-- LD Vx, K completes by entering the key wait (46_timer_key_instr.md R201). -/
theorem exec_ldVxK (x : Nib) (s : State) : exec (.ldVxK x) s = .next (s.awaitKey x) := rfl

/-- Entering the key wait changes its latch only, and not pc. -/
theorem State.frame_awaitKey (s : State) (x : Nib) : Frame { keyLatch := true } s (s.awaitKey x) :=
  Frame.of_update (fun _ _ => rfl) (fun _ _ => rfl) rfl

/-- A Release after the key wait was entered for X ends it, with `last_key` in Vx (47_frame_and_key_events.md R217). -/
theorem release_awaitKey (s : State) (x k : Nib) :
    release k (s.awaitKey x) = endKeyWait ((s.awaitKey x).setKey k false) := release_of_waiting rfl k

/-- Settles O49: the latch alone is set; in it a Step is its gate, Press leaves it, and Release runs `endKeyWait`. -/
theorem waitForKeyParksTheCore : Obligations.WaitForKeyParksTheCore := by
  intro x s
  have hdecode : decodeWord (formatF 0xF#4 x 0x0A#8) = .ok (.ldVxK x) := RoundTrip.ldVxK x rfl
  refine ⟨hdecode, s.awaitKey x, exec_ldVxK x s, rfl, rfl, rfl, s.frame_awaitKey x, fun hv => ?_,
    fun _ => ⟨rfl, rfl⟩, fun k => ?_⟩
  · exact ⟨State.engine_eq_awaitingKey hv rfl, stepOp_key hv rfl⟩
  · rw [release_awaitKey]
    refine ⟨rfl, rfl, ?_⟩
    rw [endKeyWait_getV]
    exact if_pos rfl

end Sys2Proof.Machine
